-- ==== Sys2Proof/Word.lean ====
section
/-! DEFINITION. The widths the spec gives its values, and nothing else. -/

namespace Sys2Proof

/-- One byte of a byte-array register (R37 to R39, R63). -/
abbrev Byte := BitVec 8

/-- A register of the 32-bit bus, and a command word (R11, R60, R80). -/
abbrev Reg32 := BitVec 32

/-- A byte offset from BASE_ADDR: the `addr` pins (R11, R60). -/
abbrev Offset := BitVec 8

/-- A cipher word held in 64 bits, the width of ARG and RES (R40, R41) and the largest WORD_BITS
(R9). The bits at WORD_BITS and above are kept zero by `maskN`, as R141 says (log 8). -/
abbrev Word := BitVec 64

end Sys2Proof
end

