-- ==== Sys2Proof/Syntax.lean ====
section
/-! DEFINITION. The twelve commands of the opcode map (R86), one constructor a row. Operands are the
unsigned numbers of R82 and R83; that each fits its field is `Instr.wellFormed`. -/

namespace Sys2Proof

/-- A command. `len`, `i`, `s` are the IMM8 field, `kw` the KW field, `wb` the WB bit. -/
inductive Instr where
  | nop
  | loadKey (len : Nat)
  | encrypt (len : Nat) (wb : Bool)
  | decrypt (len : Nat) (wb : Bool)
  | clearKey
  | rkRead (i : Nat)
  | roundEnc (i : Nat)
  | roundDec (i : Nat)
  | rotl (s : Nat)
  | rotr (s : Nat)
  | scramble
  | zbit (i : Nat) (kw : Nat)
  deriving DecidableEq, Repr

end Sys2Proof
end

