-- ==== Sys2Proof/WellFormed.lean ====
section
/-! DEFINITION. Which commands an assembler accepts: each operand fits its field (R90). -/

namespace Sys2Proof

/-- IMM8 has 8 bits (R80, R90). -/
def fitsImm8 (v : Nat) : Bool := v < 256

/-- KW has 3 bits (R80, R90). -/
def fitsKw (v : Nat) : Bool := v < 8

/-- "8 bits for len, i and s, and 3 bits for kw" (R90). -/
def Instr.wellFormed : Instr → Bool
  | .nop => true
  | .loadKey len => fitsImm8 len
  | .encrypt len _ => fitsImm8 len
  | .decrypt len _ => fitsImm8 len
  | .clearKey => true
  | .rkRead i => fitsImm8 i
  | .roundEnc i => fitsImm8 i
  | .roundDec i => fitsImm8 i
  | .rotl s => fitsImm8 s
  | .rotr s => fitsImm8 s
  | .scramble => true
  | .zbit i kw => fitsImm8 i && fitsKw kw

end Sys2Proof
end

