-- ==== Sys2Proof/Decode.lean ====
section
/-! DEFINITION. The decoder of R87 over the rows of R86, total on every 32-bit word, and after it the
encoder of R90. -/

namespace Sys2Proof

/-- Why a word is no command. Both are ILLEGAL_CMD to the core (R220). -/
inductive DecodeError where
  /-- OP is 0x0C to 0xFF (R81, R88). -/
  | reservedOp
  /-- OP has a row, but a bit outside the row's fields is nonzero (R87). -/
  | nonzeroUnusedBits
  deriving DecidableEq, Repr

/-- One row of the opcode map: `w` encodes it when `w &&& mask = mtch` (R86). -/
structure OpcodeRow where
  mtch : Reg32
  mask : Reg32
  build : Reg32 → Instr

/-- IMM8 = `cmd[15:8]`, zero-extended and not scaled (R82). -/
def imm8Of (w : Reg32) : Nat := (w.extractLsb' 8 8).toNat

/-- KW = `cmd[18:16]` (R83). -/
def kwOf (w : Reg32) : Nat := (w.extractLsb' 16 3).toNat

/-- WB = `cmd[24]` (R84). -/
def wbOf (w : Reg32) : Bool := w.getLsbD 24

/-- The opcode map, in the order of R86. -/
def opcodeRows : List OpcodeRow :=
  [ ⟨0x00000000, 0xFFFFFFFF, fun _ => .nop⟩,
    ⟨0x00000001, 0xFFFF00FF, fun w => .loadKey (imm8Of w)⟩,
    ⟨0x00000002, 0xFEFF00FF, fun w => .encrypt (imm8Of w) (wbOf w)⟩,
    ⟨0x00000003, 0xFEFF00FF, fun w => .decrypt (imm8Of w) (wbOf w)⟩,
    ⟨0x00000004, 0xFFFFFFFF, fun _ => .clearKey⟩,
    ⟨0x00000005, 0xFFFF00FF, fun w => .rkRead (imm8Of w)⟩,
    ⟨0x00000006, 0xFFFF00FF, fun w => .roundEnc (imm8Of w)⟩,
    ⟨0x00000007, 0xFFFF00FF, fun w => .roundDec (imm8Of w)⟩,
    ⟨0x00000008, 0xFFFF00FF, fun w => .rotl (imm8Of w)⟩,
    ⟨0x00000009, 0xFFFF00FF, fun w => .rotr (imm8Of w)⟩,
    ⟨0x0000000A, 0xFFFFFFFF, fun _ => .scramble⟩,
    ⟨0x0000000B, 0xFFF800FF, fun w => .zbit (imm8Of w) (kwOf w)⟩ ]

/-- The row that a word matches, the first of the list (R87). -/
def matchRow (w : Reg32) : Option OpcodeRow :=
  opcodeRows.find? fun r => w &&& r.mask == r.mtch

/-- OP = `cmd[7:0]` (R81). -/
def opOf (w : Reg32) : Nat := (w.extractLsb' 0 8).toNat

/-- The command a word encodes, or why it encodes none (R87, R88). -/
def decode (w : Reg32) : Except DecodeError Instr :=
  match matchRow w with
  | some r => .ok (r.build w)
  | none => if opOf w < 12 then .error .nonzeroUnusedBits else .error .reservedOp

/-- The decoder on a row's bits as spec/opcode_table.json numbers them: one 32-bit word. -/
def decodeTableWord (nbits w : Nat) : Option Instr :=
  match decode (BitVec.ofNat 32 (w % 2 ^ nbits)) with
  | .ok i => some i
  | .error _ => none

/-- `OP | (imm << 8)`, the expansion of R90 for a command that uses IMM8. -/
def encodeImm (op imm : Nat) : Reg32 := BitVec.ofNat 32 op ||| (BitVec.ofNat 32 imm <<< 8)

/-- `wb << 24` (R84, R90). -/
def encodeWb (wb : Bool) : Reg32 := if wb then 0x01000000 else 0x00000000

/-- The command word of a well-formed command, from the expansions of R90. -/
def encode : Instr → Reg32
  | .nop => 0x00000000
  | .loadKey len => encodeImm 0x01 len
  | .encrypt len wb => encodeImm 0x02 len ||| encodeWb wb
  | .decrypt len wb => encodeImm 0x03 len ||| encodeWb wb
  | .clearKey => 0x00000004
  | .rkRead i => encodeImm 0x05 i
  | .roundEnc i => encodeImm 0x06 i
  | .roundDec i => encodeImm 0x07 i
  | .rotl s => encodeImm 0x08 s
  | .rotr s => encodeImm 0x09 s
  | .scramble => 0x0000000A
  | .zbit i kw => encodeImm 0x0B i ||| (BitVec.ofNat 32 kw <<< 16)

end Sys2Proof
end

