-- ==== Sys2Proof/Config.lean ====
section
/-! DEFINITION. What is fixed when a core is elaborated (R8, R9, R11), and the values the spec leaves
open. -/

namespace Sys2Proof

/-- The builds that exist: a word size with the value of EXT_CONFIGS. Word sizes 16, 32 and 64 exist
only with EXT_CONFIGS (R8, R9, U16), so a default build with one of them cannot be written down. -/
inductive Params where
  | default24 | default48
  | ext16 | ext24 | ext32 | ext48 | ext64
  deriving DecidableEq, Repr

/-- BASE_ADDR, which the platform chooses (R11, U12): open, so it has no value here (log 12). -/
opaque Config.baseAddr : Nat

/-- The value of the `k`-th unspecified read: one of DOUT, RES or CFG while STATUS.BUSY = 1
(R48, U1). A fresh draw for each read, under no law (log 5). -/
opaque Config.freeRead : Nat → Reg32

end Sys2Proof
end

