-- ==== Sys2Proof/Machine/ConstantTable.lean ====
section
/-! DEFINITION. The Constant Table: the configurations of R120, the z-sequences of R121, the lookup of
R123, and the parameters of a build that follow from them (R10, R32, R36). Pure lookup, no state. -/

namespace Sys2Proof.Machine

/-- WORD_BITS of the build, the n of R18 (R8, R9). -/
def wordBits : Params → Nat
  | .ext16 => 16
  | .default24 | .ext24 => 24
  | .ext32 => 32
  | .default48 | .ext48 => 48
  | .ext64 => 64

/-- EXT_CONFIGS of the build (R9). -/
def extConfigs : Params → Bool
  | .default24 | .default48 => false
  | .ext16 | .ext24 | .ext32 | .ext48 | .ext64 => true

/-- The build with these parameters: none where no such build exists, as for WORD_BITS 16, 32 and 64
without EXT_CONFIGS (R8, R9, U16). -/
def paramsOf (n : Nat) (ext : Bool) : Option Params :=
  [Params.default24, .default48, .ext16, .ext24, .ext32, .ext48, .ext64].find? fun p =>
    wordBits p == n && extConfigs p == ext

/-- A configuration (n, m, T, j), and whether it needs EXT_CONFIGS: a row of R120. -/
structure ConfigRow where
  wordBits : Nat
  keyWords : Nat
  rounds : Nat
  zsel : Nat
  needsExt : Bool
  deriving DecidableEq, Repr

/-- The configuration table (R120). The last row, Simon128/256, is UNVERIFIED (R121, G2; log 10). -/
def configTable : List ConfigRow :=
  [ ⟨16, 4, 32, 0, true⟩,
    ⟨24, 3, 36, 0, false⟩,
    ⟨24, 4, 36, 1, false⟩,
    ⟨32, 3, 42, 2, true⟩,
    ⟨32, 4, 44, 3, true⟩,
    ⟨48, 2, 52, 2, false⟩,
    ⟨48, 3, 54, 3, false⟩,
    ⟨64, 2, 68, 2, true⟩,
    ⟨64, 3, 69, 3, true⟩,
    ⟨64, 4, 72, 4, true⟩ ]

/-- The rows a build accepts: its own word size, and only default rows unless EXT_CONFIGS (R120). -/
def acceptedRows (p : Params) : List ConfigRow :=
  configTable.filter fun r => r.wordBits == wordBits p && (!r.needsExt || extConfigs p)

/-- CT_lookup of R123 for the build's WORD_BITS and `m` key words: (T, j), or not recognized. -/
def ctLookup (p : Params) (m : Nat) : Option (Nat × Nat) :=
  ((acceptedRows p).find? fun r => r.keyWords == m).map fun r => (r.rounds, r.zsel)

/-- The five z-sequences, packed: bit i of the number is `z_j[i]` (R44, R121). z4 is UNVERIFIED
(R121, log 10). -/
def zPacked : List Word :=
  [ 0x19C3522FB386A45F,
    0x16864FB8AD0C9F71,
    0x3369F885192C0EF5,
    0x3C2CE51207A635DB,
    0x3DC94C3A046D678B ]

/-- CT_bit(j, i) = `z_j[i mod 62]` (R123). -/
def ctBit (j i : Nat) : Bool := (zPacked.getD j 0).getLsbD (i % 62)

/-- WORD_BYTES (R10). -/
def wordBytes (p : Params) : Nat := wordBits p / 8

/-- BLOCK_BYTES (R10, R202). -/
def blockBytes (p : Params) : Nat := 2 * wordBytes p

/-- KW_SET (R10). -/
def kwSet (p : Params) : List Nat := (acceptedRows p).map (·.keyWords)

/-- RK_DEPTH, the largest round count among the accepted configurations (R10). -/
def rkDepth (p : Params) : Nat := ((acceptedRows p).map (·.rounds)).foldl max 0

/-- CAPS.KW_MASK: bit m - 2 is set when m is in KW_SET (R32). -/
def kwMask (p : Params) : Nat := ((kwSet p).map fun m => 2 ^ (m - 2)).sum

/-- ID (R30). -/
def idWord : Reg32 := 0x53494D4E

/-- VERSION (R31). -/
def versionWord : Reg32 := 0x00010000

/-- CAPS: WORD_BITS in 6:0, BLOCK_BYTES in 12:8, KW_MASK in 18:16 (R32). -/
def capsWord (p : Params) : Reg32 :=
  BitVec.ofNat 32 (wordBits p) ||| (BitVec.ofNat 32 (blockBytes p) <<< 8)
    ||| (BitVec.ofNat 32 (kwMask p) <<< 16)

/-- The CFG value of a loaded configuration (R36, R160). -/
def cfgWord (p : Params) (m T j : Nat) : Reg32 :=
  BitVec.ofNat 32 (wordBits p) ||| (BitVec.ofNat 32 m <<< 8) ||| (BitVec.ofNat 32 T <<< 16)
    ||| (BitVec.ofNat 32 j <<< 24)

end Sys2Proof.Machine
end

