-- ==== Sys2Proof/Machine/State.lean ====
section
/-! DEFINITION. The state of the core as plain data (R20, R23), how a step can stop, and the state after
reset (R260). -/

namespace Sys2Proof.Machine

/-- The error codes of R220. Codes 8 to 15 are reserved and never reported. -/
inductive ErrCode where
  | none | illegalCmd | config | noKey | blockSize | badOperand | busyWrite | access
  deriving DecidableEq, Repr

/-- The registers of R23. `unmapped` stands for the offsets 0x80 to 0xFC. -/
inductive Reg where
  | id | version | caps | ctrl | status | cmd | cfg | errInfo
  | key (i : Fin 8)
  | din (i : Fin 4)
  | dout (i : Fin 4)
  | arg0Lo | arg0Hi | arg1Lo | arg1Hi
  | res0Lo | res0Hi | res1Lo | res1Hi
  | unmapped
  deriving DecidableEq, Repr

/-- What the outside world does at one rising edge of `clk`: the input pins of R60, and whether the
engine's Complete falls in this cycle, which CMD_LATENCY leaves open (R12, R102; log 2). -/
structure Cycle where
  rstN : Bool
  sel : Bool
  write : Bool
  addr : Offset
  wdata : Reg32
  engine : Bool
  deriving DecidableEq, Repr

/-- The core. The fields down to `pending` are the spec's state; `params`, `script`, `rdata` and
`draws` are the model's own (log 1 to log 5). The constant registers ID, VERSION and CAPS and the
z-sequence ROM are definitions of ConstantTable: nothing changes them (R30 to R32, R44). -/
structure State where
  /-- WORD_BITS and EXT_CONFIGS of the build (R8, R9). No step changes it. -/
  params : Params
  /-- CTRL.DONE_IE (R33). -/
  doneIE : Bool
  /-- CTRL.ERR_IE (R33). -/
  errIE : Bool
  /-- STATUS.BUSY: a command is pending (R34, R45). -/
  busy : Bool
  /-- STATUS.KEYVALID (R34, R161). -/
  keyValid : Bool
  /-- STATUS.DONE (R34). -/
  done : Bool
  /-- STATUS.ERR (R34). -/
  err : Bool
  /-- STATUS.ERRCODE (R34, R220). -/
  errCode : ErrCode
  /-- ERRINFO (R42). -/
  errInfo : Reg32
  /-- CFG (R36). -/
  cfg : Reg32
  /-- KEY0 to KEY7 (R37). -/
  key : Vector Reg32 8
  /-- DIN0 to DIN3 (R38). -/
  din : Vector Reg32 4
  /-- DOUT0 to DOUT3 (R39). -/
  dout : Vector Reg32 4
  /-- ARG0 and ARG1, each `{HI, LO}` (R40). -/
  arg0 : Word
  arg1 : Word
  /-- RES0 and RES1, each `{HI, LO}` (R41). -/
  res0 : Word
  res1 : Word
  /-- The round-key file `RK[0 .. RK_DEPTH)` (R43). -/
  rk : List Word
  /-- The latched command word; meaningful while `busy` (R45; log 6). -/
  pending : Reg32
  /-- The clock cycles to come (R19, R73; log 2). -/
  script : List Cycle
  /-- `rdata` in the cycle just run: none when no read completed in it (R60; log 4). -/
  rdata : Option Reg32
  /-- How many unspecified reads have been drawn (R48, U1; log 5). -/
  draws : Nat
  deriving DecidableEq, Repr

/-- The core never stops with a fault: every error of R220 is recorded and the core goes on (R222,
R226), so this type has no constructor. Safe (log 16). -/
inductive Fault where
  deriving DecidableEq, Repr

/-- Why a command has no meaning in this model. -/
inductive Refusal where
  /-- Raised by an arm of `exec` for a command that has no meaning yet; safe. No arm raises it. -/
  | notModelled (mnemonic : String)
  deriving DecidableEq, Repr

/-- How Execute(c) of a command ends (R104): in a state, or in `raise E(c)` with the writes that the
command's rule lists before the raise (R105). -/
inductive ExecEnd where
  | finished (s : State)
  | raised (e : ErrCode) (s : State)
  deriving DecidableEq, Repr

/-- The state of a build after reset: every register at the reset value of R23, no command pending,
no key, no error (R260). -/
def State.resetOf (p : Params) : State where
  params := p
  doneIE := false
  errIE := false
  busy := false
  keyValid := false
  done := false
  err := false
  errCode := .none
  errInfo := 0
  cfg := 0
  key := Vector.replicate 8 0
  din := Vector.replicate 4 0
  dout := Vector.replicate 4 0
  arg0 := 0
  arg1 := 0
  res0 := 0
  res1 := 0
  rk := List.replicate (rkDepth p) 0
  pending := 0
  script := []
  rdata := none
  draws := 0

/-- The machine right after reset: the default build with WORD_BITS = 24 (DESIGN CHOICE, log 1). -/
def State.reset : State := State.resetOf .default24

end Sys2Proof.Machine
end

