-- ==== Sys2Proof/Machine/Flags.lean ====
section
/-! DEFINITION. STATUS, CTRL and the interrupt output: their layout, error codes, and the one operation
that records an error (R33, R34, R220, R222, R230). The core has no arithmetic flags (R49). -/

namespace Sys2Proof.Machine

/-- The code of an error in STATUS.ERRCODE (R220). -/
def ErrCode.code : ErrCode → Nat
  | .none => 0
  | .illegalCmd => 1
  | .config => 2
  | .noKey => 3
  | .blockSize => 4
  | .badOperand => 5
  | .busyWrite => 6
  | .access => 7

/-- A flag at bit `i` of a 32-bit register. -/
def flagBit (b : Bool) (i : Nat) : Reg32 := BitVec.ofNat 32 b.toNat <<< i

/-- STATUS as read: BUSY 0, KEYVALID 1, DONE 2, ERR 3, ERRCODE 11:8, the rest 0 (R34). -/
def statusWord (s : State) : Reg32 :=
  flagBit s.busy 0 ||| flagBit s.keyValid 1 ||| flagBit s.done 2 ||| flagBit s.err 3
    ||| (BitVec.ofNat 32 s.errCode.code <<< 8)

/-- CTRL as read: DONE_IE 0, ERR_IE 1, the rest (SRST among them) 0 (R33). -/
def ctrlWord (s : State) : Reg32 := flagBit s.doneIE 0 ||| flagBit s.errIE 1

/-- `irq = (DONE_IE & DONE) | (ERR_IE & ERR)` (R230). -/
def irq (s : State) : Bool := (s.doneIE && s.done) || (s.errIE && s.err)

/-- ReportError(E, info): the first error since ERR was last cleared is kept (R222). -/
def reportError (e : ErrCode) (info : Reg32) (s : State) : State :=
  { s with
    errCode := if s.err then s.errCode else e
    errInfo := if s.err then s.errInfo else info
    err := true }

/-- The effect of writing `v` to STATUS: bit 2 clears DONE; bit 3 clears ERR, ERRCODE and ERRINFO
together (R34, R227). -/
def writeStatus (v : Reg32) (s : State) : State :=
  { s with
    done := s.done && !v.getLsbD 2
    err := s.err && !v.getLsbD 3
    errCode := if v.getLsbD 3 then .none else s.errCode
    errInfo := if v.getLsbD 3 then 0 else s.errInfo }

/-- CFG.ROUNDS = `CFG[23:16]` (R36). -/
def cfgRounds (s : State) : Nat := (s.cfg.extractLsb' 16 8).toNat

end Sys2Proof.Machine
end

