-- ==== Sys2Proof/Machine/Codec.lean ====
section
/-! DEFINITION. The Word Codec: masking and the Word test (R14, R141), rotations within the n-bit field
(R142), little-endian decode and encode (R140), and the byte view of 32-bit registers (R63). -/

namespace Sys2Proof.Machine

/-- `mask_n(v)` clears every bit at position n or above (R14). -/
def maskN (n : Nat) (v : Word) : Word := v &&& BitVec.ofNat 64 (2 ^ n - 1)

/-- Whether a 64-bit value is below `2^n`, that is, a Word (R40, R141). -/
def isWord (n : Nat) (v : Word) : Bool := v.toNat < 2 ^ n

/-- `rotl_n(w, s)` for 0 <= s < n (R142). -/
def rotl (n : Nat) (w : Word) (s : Nat) : Word :=
  if s = 0 then w else maskN n ((w <<< s) ||| (w >>> (n - s)))

/-- `rotr_n(w, s) = rotl_n(w, (n - s) mod n)` (R142). -/
def rotr (n : Nat) (w : Word) (s : Nat) : Word := rotl n w ((n - s) % n)

/-- `LE_decode(b[0 .. k))`: the sum of `b[t] * 2^(8t)` (R140). -/
def leDecode : List Byte → Nat
  | [] => 0
  | b :: bs => b.toNat + 256 * leDecode bs

/-- `LE_encode_k(w)[t] = w[8t+7 : 8t]` (R140). -/
def leEncode (k : Nat) (w : Word) : List Byte :=
  (List.range k).map fun t => w.extractLsb' (8 * t) 8

/-- Byte j of a byte array laid over 32-bit registers: byte `j mod 4` of register `j / 4` (R63).
Bytes beyond the array, which no rule reads, are 0 (log 20). -/
def byteAt {k : Nat} (r : Vector Reg32 k) (j : Nat) : Byte :=
  (r[j / 4]?.getD 0).extractLsb' (8 * (j % 4)) 8

/-- The bytes `[lo .. lo + len)` of a byte array (R63). -/
def bytesAt {k : Nat} (r : Vector Reg32 k) (lo len : Nat) : List Byte :=
  (List.range len).map fun t => byteAt r (lo + t)

/-- The register whose bytes, lowest first, are these (R63). -/
def regOfBytes (b0 b1 b2 b3 : Byte) : Reg32 := b3 ++ b2 ++ b1 ++ b0

/-- Write a byte array: byte j becomes `f j old` (R63). -/
def mapBytes {k : Nat} (r : Vector Reg32 k) (f : Nat → Byte → Byte) : Vector Reg32 k :=
  r.mapIdx fun i _ =>
    regOfBytes (f (4 * i) (byteAt r (4 * i))) (f (4 * i + 1) (byteAt r (4 * i + 1)))
      (f (4 * i + 2) (byteAt r (4 * i + 2))) (f (4 * i + 3) (byteAt r (4 * i + 3)))

end Sys2Proof.Machine
end

