-- ==== Sys2Proof/Machine/Operands.lean ====
section
/-! DEFINITION. Every operand form of the commands (R85): words decoded from the byte views of KEY and
DIN (R64 to R66), round keys by index (R21), and the range test of ARG (R40). -/

namespace Sys2Proof.Machine

/-- The pair (x, y) of R64; x is the word a forward round scrambles (R18). -/
structure Block where
  x : Word
  y : Word
  deriving DecidableEq, Repr

/-- WORD_BITS of the core, the n of every word rule (R14). -/
def bitsOf (s : State) : Nat := wordBits s.params

/-- The word decoded from WORD_BYTES bytes of an array, from byte `lo` on (R64 to R66). -/
def wordAt {k : Nat} (p : Params) (r : Vector Reg32 k) (lo : Nat) : Word :=
  BitVec.ofNat 64 (leDecode (bytesAt r lo (wordBytes p)))

/-- The input block of ENCRYPT and DECRYPT: x first, then y (R64, R200). -/
def dinBlock (s : State) : Block :=
  ⟨wordAt s.params s.din 0, wordAt s.params s.din (wordBytes s.params)⟩

/-- The bytes of a block: `LE_encode(x) ++ LE_encode(y)` (R64, R200). -/
def blockOut (p : Params) (b : Block) : List Byte :=
  leEncode (wordBytes p) b.x ++ leEncode (wordBytes p) b.y

/-- `RK[i]` (R43). Entries beyond the file, which no legal index reaches, are 0 (log 20). -/
def rkAt (k : List Word) (i : Nat) : Word := k.getD i 0

/-- `ARG0 >= 2^WORD_BITS` does not hold (R40). -/
def arg0Ok (s : State) : Bool := isWord (bitsOf s) s.arg0

/-- `ARG1 >= 2^WORD_BITS` does not hold (R40). -/
def arg1Ok (s : State) : Bool := isWord (bitsOf s) s.arg1

end Sys2Proof.Machine
end

