-- ==== Sys2Proof/Machine/Ops.lean ====
section
/-! DEFINITION. The operations that commands and transfers share: issue and completion of a command
(R100, R104, R105), entering the reset state (R260, R261), writing results and discarding the key
state. The core has no trap: what corresponds to one is `reportError` (R226), and what corresponds
to the return is `writeStatus` (R227). -/

namespace Sys2Proof.Machine

/-- Issue of a command by an accepted CMD write (R100). -/
def issue (v : Reg32) (s : State) : State :=
  { s with pending := v, busy := true, done := false }

/-- The end of a completion: BUSY <- 0, DONE <- 1 (R104). -/
def finish (s : State) : State := { s with busy := false, done := true }

/-- The completion step around Execute(c), with c the latched word: a raise is reported with c as
its information word, and then BUSY and DONE change (R104, R105, R222). -/
def complete : ExecEnd → State
  | .finished s => finish s
  | .raised e s => finish (reportError e s.pending s)

/-- The completion of a word that matches no row: ILLEGAL_CMD (R87). -/
def completeIllegal (s : State) : State := complete (.raised .illegalCmd s)

/-- The reset state (R260): every register at its reset value, the pending command discarded. The
build, the cycles to come and the model's bookkeeping of reads are not registers and stay. -/
def resetCore (s : State) : State :=
  { State.resetOf s.params with script := s.script, rdata := s.rdata, draws := s.draws }

/-- RES0 <- v (R41). -/
def setRes0 (v : Word) (s : State) : State := { s with res0 := v }

/-- RES0 <- v; RES1 <- w (R41). -/
def setRes (v w : Word) (s : State) : State := { s with res0 := v, res1 := w }

/-- KEYVALID <- 0, CFG <- 0, every RK entry <- 0, every key byte <- 0 (R160, R162). -/
def dropKey (s : State) : State :=
  { s with
    keyValid := false
    cfg := 0
    rk := List.replicate (rkDepth s.params) 0
    key := Vector.replicate 8 0 }

/-- DOUT_BYTE[0 .. BLOCK_BYTES) <- out, DOUT_BYTE[BLOCK_BYTES .. 16) <- 0, and with `wb` also
DIN_BYTE[0 .. BLOCK_BYTES) <- out (R38, R39, R200). -/
def setOut (out : List Byte) (wb : Bool) (s : State) : State :=
  { s with
    dout := mapBytes s.dout fun j _ => if j < blockBytes s.params then out.getD j 0 else 0
    din := if wb then
        mapBytes s.din fun j old => if j < blockBytes s.params then out.getD j 0 else old
      else s.din }

/-- An erroring bus write: the report at the moment of the access, with `offset & 0xFC` as its
information word, and nothing else (R220, R223). -/
def busError (e : ErrCode) (off : Offset) (s : State) : State :=
  reportError e ((off &&& 0xFC).setWidth 32) s

end Sys2Proof.Machine
end

