-- ==== Sys2Proof/Machine/Bus.lean ====
section
/-! DEFINITION. The register interface: the map of R23, the access types of R24, the busy interlock of
R48, one bus write and one bus read (R60, R67, R70), and the platform's address decoding (R11). -/

namespace Sys2Proof.Machine

/-- The register at an offset: `addr[1:0]` is ignored (R23, R67). -/
def regAt (off : Offset) : Reg :=
  match (off >>> 2).toNat with
  | 0 => .id
  | 1 => .version
  | 2 => .caps
  | 3 => .ctrl
  | 4 => .status
  | 5 => .cmd
  | 6 => .cfg
  | 7 => .errInfo
  | 8 => .key 0
  | 9 => .key 1
  | 10 => .key 2
  | 11 => .key 3
  | 12 => .key 4
  | 13 => .key 5
  | 14 => .key 6
  | 15 => .key 7
  | 16 => .din 0
  | 17 => .din 1
  | 18 => .din 2
  | 19 => .din 3
  | 20 => .dout 0
  | 21 => .dout 1
  | 22 => .dout 2
  | 23 => .dout 3
  | 24 => .arg0Lo
  | 25 => .arg0Hi
  | 26 => .arg1Lo
  | 27 => .arg1Hi
  | 28 => .res0Lo
  | 29 => .res0Hi
  | 30 => .res1Lo
  | 31 => .res1Hi
  | _ => .unmapped

/-- A write to it is ignored and raises ACCESS: read-only or unmapped (R24, R220). -/
def Reg.rejectsWrites : Reg → Bool
  | .id | .version | .caps | .cfg | .errInfo | .dout _ => true
  | .res0Lo | .res0Hi | .res1Lo | .res1Hi | .unmapped => true
  | .ctrl | .status | .cmd | .key _ | .din _ => false
  | .arg0Lo | .arg0Hi | .arg1Lo | .arg1Hi => false

/-- A locked register: a write while BUSY = 1 is discarded and raises BUSY_WRITE (R48). -/
def Reg.locked : Reg → Bool
  | .cmd | .key _ | .din _ | .arg0Lo | .arg0Hi | .arg1Lo | .arg1Hi => true
  | .id | .version | .caps | .ctrl | .status | .cfg | .errInfo | .dout _ => false
  | .res0Lo | .res0Hi | .res1Lo | .res1Hi | .unmapped => false

/-- A read while BUSY = 1 returns an unspecified value (R48, U1). -/
def Reg.openWhileBusy : Reg → Bool
  | .cfg | .dout _ | .res0Lo | .res0Hi | .res1Lo | .res1Hi => true
  | .id | .version | .caps | .ctrl | .status | .cmd | .errInfo | .key _ | .din _ => false
  | .arg0Lo | .arg0Hi | .arg1Lo | .arg1Hi | .unmapped => false

/-- `{HI, LO}` with LO replaced (R40). -/
def withLo (w : Word) (v : Reg32) : Word := w.extractLsb' 32 32 ++ v

/-- `{HI, LO}` with HI replaced (R40). -/
def withHi (w : Word) (v : Reg32) : Word := v ++ w.extractLsb' 0 32

/-- The effect of a CTRL write: bit 31 performs only the soft reset; otherwise the two enables are
written (R33, R261). -/
def writeCtrl (v : Reg32) (s : State) : State :=
  if v.getLsbD 31 then resetCore s
  else { s with doneIE := v.getLsbD 0, errIE := v.getLsbD 1 }

/-- An accepted write of `v` to a register (R24, R33 to R35, R37, R38, R40). A register that rejects
writes stores nothing. -/
def storeReg (r : Reg) (v : Reg32) (s : State) : State :=
  match r with
  | .ctrl => writeCtrl v s
  | .status => writeStatus v s
  | .cmd => issue v s
  | .key i => { s with key := s.key.set i v }
  | .din i => { s with din := s.din.set i v }
  | .arg0Lo => { s with arg0 := withLo s.arg0 v }
  | .arg0Hi => { s with arg0 := withHi s.arg0 v }
  | .arg1Lo => { s with arg1 := withLo s.arg1 v }
  | .arg1Hi => { s with arg1 := withHi s.arg1 v }
  | .id | .version | .caps | .cfg | .errInfo | .dout _ => s
  | .res0Lo | .res0Hi | .res1Lo | .res1Hi | .unmapped => s

/-- BusWrite(off, v) (R15, R60): ACCESS for a read-only or unmapped offset at any time, BUSY_WRITE
for a locked register while BUSY = 1, and otherwise the store (R24, R48, R70). -/
def busWrite (off : Offset) (v : Reg32) (s : State) : State :=
  if (regAt off).rejectsWrites then busError .access off s
  else if s.busy && (regAt off).locked then busError .busyWrite off s
  else storeReg (regAt off) v s

/-- The value of a register as a read returns it where the spec defines it: write-only registers and
unmapped offsets read 0 (R24). -/
def readReg (r : Reg) (s : State) : Reg32 :=
  match r with
  | .id => idWord
  | .version => versionWord
  | .caps => capsWord s.params
  | .ctrl => ctrlWord s
  | .status => statusWord s
  | .cmd => 0
  | .cfg => s.cfg
  | .errInfo => s.errInfo
  | .key _ => 0
  | .din i => s.din[i]
  | .dout i => s.dout[i]
  | .arg0Lo => s.arg0.extractLsb' 0 32
  | .arg0Hi => s.arg0.extractLsb' 32 32
  | .arg1Lo => s.arg1.extractLsb' 0 32
  | .arg1Hi => s.arg1.extractLsb' 32 32
  | .res0Lo => s.res0.extractLsb' 0 32
  | .res0Hi => s.res0.extractLsb' 32 32
  | .res1Lo => s.res1.extractLsb' 0 32
  | .res1Hi => s.res1.extractLsb' 32 32
  | .unmapped => 0

/-- BusRead(off) (R15, R60): drives `rdata` and changes no register (R70). While BUSY = 1 a read of
DOUT, RES or CFG is a fresh draw (R48, U1). -/
def busRead (off : Offset) (s : State) : State :=
  if s.busy && (regAt off).openWhileBusy then
    { s with rdata := some (Config.freeRead s.draws), draws := s.draws + 1 }
  else { s with rdata := some (readReg (regAt off) s) }

/-- The bus transfer of a cycle, if `sel` makes one (R60). -/
def busPhase (c : Cycle) (s : State) : State :=
  if !c.sel then s
  else if c.write then busWrite c.addr c.wdata s
  else busRead c.addr s

/-- A cycle with `rst_n` = 0: the reset state; a write is ignored and a read returns 0 (R260). -/
def resetPhase (c : Cycle) (s : State) : State :=
  { resetCore s with rdata := if c.sel && !c.write then some 0 else s.rdata }

/-- A cycle with no transfer in which the pending command, if any, completes (log 2). -/
def Cycle.engineTurn : Cycle := ⟨true, false, false, 0, 0, true⟩

/-- A cycle with no transfer and no completion. -/
def Cycle.idle : Cycle := ⟨true, false, false, 0, 0, false⟩

/-- BusWrite(off, v) as the pins show it (R60). -/
def Cycle.busWrite (off : Offset) (v : Reg32) : Cycle := ⟨true, true, true, off, v, false⟩

/-- BusRead(off) as the pins show it (R60). -/
def Cycle.busRead (off : Offset) : Cycle := ⟨true, true, false, off, 0, false⟩

/-- The offset a platform address selects: the 256 bytes from BASE_ADDR on (R11, R71; log 12). -/
def platformOffset (a : Nat) : Option Offset :=
  if Config.baseAddr ≤ a ∧ a < Config.baseAddr + 256 then
    some (BitVec.ofNat 8 (a - Config.baseAddr))
  else none

/-- A write that a bus master makes at a platform address, as the core's pins show it (R11, R60). -/
def Cycle.platformWrite (a : Nat) (v : Reg32) : Cycle :=
  match platformOffset a with
  | some off => .busWrite off v
  | none => .idle

/-- A read that a bus master makes at a platform address (R11, R60). -/
def Cycle.platformRead (a : Nat) : Cycle :=
  match platformOffset a with
  | some off => .busRead off
  | none => .idle

end Sys2Proof.Machine
end

