-- ==== Sys2Proof/Machine/RoundEngine.lean ====
section
/-! DEFINITION. The Round Engine (R180 to R183, R187) and its commands ROUND_ENC, ROUND_DEC and SCRAMBLE
(R184 to R186). -/

namespace Sys2Proof.Machine

/-- The scramble function `f_n` (R180). -/
def scramble (n : Nat) (x : Word) : Word := (rotl n x 1 &&& rotl n x 8) ^^^ rotl n x 2

/-- The forward round `Rnd_k(x, y)` (R182). -/
def rnd (n : Nat) (k : Word) (b : Block) : Block := ⟨b.y ^^^ scramble n b.x ^^^ k, b.x⟩

/-- The inverse round `Rnd_inv_k(x, y)` (R182). -/
def rndInv (n : Nat) (k : Word) (b : Block) : Block := ⟨b.y, b.x ^^^ scramble n b.y ^^^ k⟩

/-- Simon_enc: rounds 0 to T - 1 in order (R183). -/
def simonEnc (n : Nat) (k : List Word) : Nat → Block → Block
  | 0, b => b
  | T + 1, b => rnd n (rkAt k T) (simonEnc n k T b)

/-- Simon_dec: inverse rounds T - 1 down to 0 (R183). -/
def simonDec (n : Nat) (k : List Word) : Nat → Block → Block
  | 0, b => b
  | T + 1, b => simonDec n k T (rndInv n (rkAt k T) b)

/-- What ROUND_ENC and ROUND_DEC check, in order, before they compute (R184, R185). -/
def roundCheck (i : Nat) (s : State) : Option ErrCode :=
  if !s.keyValid then some .noKey
  else if cfgRounds s ≤ i || !arg0Ok s || !arg1Ok s then some .badOperand
  else none

/-- ROUND_ENC: one forward round of (ARG0, ARG1) with `RK[i]` (R184). -/
def execRoundEnc (i : Nat) (s : State) : Host.Outcome State Fault Refusal :=
  .next <| complete <|
    match roundCheck i s with
    | some e => .raised e s
    | none =>
      let b := rnd (bitsOf s) (rkAt s.rk i) ⟨s.arg0, s.arg1⟩
      .finished (setRes b.x b.y s)

/-- ROUND_DEC: one inverse round of (ARG0, ARG1) with `RK[i]` (R185). -/
def execRoundDec (i : Nat) (s : State) : Host.Outcome State Fault Refusal :=
  .next <| complete <|
    match roundCheck i s with
    | some e => .raised e s
    | none =>
      let b := rndInv (bitsOf s) (rkAt s.rk i) ⟨s.arg0, s.arg1⟩
      .finished (setRes b.x b.y s)

/-- SCRAMBLE: RES0 <- `f_n(ARG0)` (R186). -/
def execScramble (s : State) : Host.Outcome State Fault Refusal :=
  .next <| complete <|
    if !arg0Ok s then .raised .badOperand s
    else .finished (setRes0 (scramble (bitsOf s) s.arg0) s)

end Sys2Proof.Machine
end

