-- ==== Sys2Proof/Machine/CipherFacade.lean ====
section
/-! DEFINITION. The Cipher Facade: ENCRYPT and DECRYPT (R200, R201). -/

namespace Sys2Proof.Machine

/-- What ENCRYPT and DECRYPT check, in order, before they compute (R200, R201). -/
def blockCheck (len : Nat) (s : State) : Option ErrCode :=
  if !s.keyValid then some .noKey
  else if len ≠ blockBytes s.params then some .blockSize
  else none

/-- ENCRYPT: the block in DIN through Simon_enc (R200). -/
def execEncrypt (len : Nat) (wb : Bool) (s : State) : Host.Outcome State Fault Refusal :=
  .next <| complete <|
    match blockCheck len s with
    | some e => .raised e s
    | none =>
      let b := simonEnc (bitsOf s) s.rk (cfgRounds s) (dinBlock s)
      .finished (setOut (blockOut s.params b) wb s)

/-- DECRYPT: the block in DIN through Simon_dec (R201). -/
def execDecrypt (len : Nat) (wb : Bool) (s : State) : Host.Outcome State Fault Refusal :=
  .next <| complete <|
    match blockCheck len s with
    | some e => .raised e s
    | none =>
      let b := simonDec (bitsOf s) s.rk (cfgRounds s) (dinBlock s)
      .finished (setOut (blockOut s.params b) wb s)

end Sys2Proof.Machine
end

