-- ==== Sys2Proof/Machine/CommandModel.lean ====
section
/-! DEFINITION. NOP (R106). -/

namespace Sys2Proof.Machine

/-- NOP: Execute does nothing; completion sets DONE (R106). -/
def execNop (s : State) : Host.Outcome State Fault Refusal :=
  .next (complete (.finished s))

end Sys2Proof.Machine
end

