-- ==== Sys2Proof/Machine/KeySchedule.lean ====
section
/-! DEFINITION. The Key Schedule Expander (R164, R165) and its commands LOAD_KEY, CLEAR_KEY and RK_READ
(R160, R162, R163). -/

namespace Sys2Proof.Machine

/-- KS_split: the first m round keys are the key's words (R65, R164). -/
def ksSplit (p : Params) (key : Vector Reg32 8) (m : Nat) : List Word :=
  (List.range m).map fun i => wordAt p key (i * wordBytes p)

/-- Steps a to e of R165: the round key `k[i]` from those before it. -/
def ksNext (n m j : Nat) (k : List Word) (i : Nat) : Word :=
  let a := rotr n (rkAt k (i - 1)) 3
  let b := if m = 4 then a ^^^ rkAt k (i - 3) else a
  let c := b ^^^ rotr n b 1
  maskN n (~~~ rkAt k (i - m) ^^^ c ^^^ BitVec.ofNat 64 (ctBit j (i - m)).toNat ^^^ 3)

/-- The loop of R165, run for `steps` more round keys. -/
def ksExtend (n m j : Nat) : Nat → List Word → List Word
  | 0, k => k
  | steps + 1, k => ksExtend n m j steps (k ++ [ksNext n m j k k.length])

/-- KS_expand: the round keys `k[0 .. T)` (R165). -/
def ksExpand (p : Params) (key : Vector Reg32 8) (m T j : Nat) : List Word :=
  ksExtend (wordBits p) m j (T - m) (ksSplit p key m)

/-- The configuration a key length selects: (m, T, j), when LEN is a multiple of WORD_BYTES and
CT_lookup recognizes LEN / WORD_BYTES (R160). -/
def keyConfig (p : Params) (len : Nat) : Option (Nat × Nat × Nat) :=
  if len % wordBytes p = 0 then
    (ctLookup p (len / wordBytes p)).map fun (T, j) => (len / wordBytes p, T, j)
  else none

/-- The writes of a successful LOAD_KEY: RK (0 from T on), CFG, KEYVALID, and the key bytes (R160). -/
def loadKeyState (m T j : Nat) (s : State) : State :=
  { s with
    rk := ksExpand s.params s.key m T j ++ List.replicate (rkDepth s.params - T) 0
    cfg := cfgWord s.params m T j
    keyValid := true
    key := Vector.replicate 8 0 }

/-- LOAD_KEY: a key length no configuration accepts destroys the key state before CONFIG is raised
(R105, R160). -/
def execLoadKey (len : Nat) (s : State) : Host.Outcome State Fault Refusal :=
  .next <| complete <|
    match keyConfig s.params len with
    | none => .raised .config (dropKey s)
    | some (m, T, j) => .finished (loadKeyState m T j s)

/-- CLEAR_KEY discards the round-key sequence (R162). -/
def execClearKey (s : State) : Host.Outcome State Fault Refusal :=
  .next (complete (.finished (dropKey s)))

/-- RK_READ: RES0 <- `RK[i]` for i below CFG.ROUNDS (R163). -/
def execRkRead (i : Nat) (s : State) : Host.Outcome State Fault Refusal :=
  .next <| complete <|
    if !s.keyValid then .raised .noKey s
    else if cfgRounds s ≤ i then .raised .badOperand s
    else .finished (setRes0 (rkAt s.rk i) s)

end Sys2Proof.Machine
end

