-- ==== Sys2Proof/Machine/WordCodec.lean ====
section
/-! DEFINITION. ROTL and ROTR, the commands of the Word Codec (R144, R145). -/

namespace Sys2Proof.Machine

/-- `s >= WORD_BITS or ARG0 >= 2^WORD_BITS` (R144, R145). -/
def rotationRefused (amount : Nat) (s : State) : Bool := bitsOf s ≤ amount || !arg0Ok s

/-- ROTL: RES0 <- `rotl_n(ARG0, s)` (R144). -/
def execRotl (amount : Nat) (s : State) : Host.Outcome State Fault Refusal :=
  .next <| complete <|
    if rotationRefused amount s then .raised .badOperand s
    else .finished (setRes0 (rotl (bitsOf s) s.arg0 amount) s)

/-- ROTR: RES0 <- `rotr_n(ARG0, s)` (R145). -/
def execRotr (amount : Nat) (s : State) : Host.Outcome State Fault Refusal :=
  .next <| complete <|
    if rotationRefused amount s then .raised .badOperand s
    else .finished (setRes0 (rotr (bitsOf s) s.arg0 amount) s)

end Sys2Proof.Machine
end

