-- ==== Sys2Proof/Machine/ZBit.lean ====
section
/-! DEFINITION. ZBIT, the command of the Constant Table (R124). -/

namespace Sys2Proof.Machine

/-- ZBIT: RES0 <- `z_j[i mod 62]`, RES1 <- j; CONFIG when `kw` is not in KW_SET (R83, R124). -/
def execZbit (i kw : Nat) (s : State) : Host.Outcome State Fault Refusal :=
  .next <| complete <|
    match ctLookup s.params kw with
    | none => .raised .config s
    | some (_, j) => .finished (setRes (BitVec.ofNat 64 (ctBit j i).toNat) (BitVec.ofNat 64 j) s)

end Sys2Proof.Machine
end

