-- ==== Sys2Proof/Machine/Dispatch.lean ====
section
/-! DEFINITION. One arm per command: its Execute and its completion (R104). -/

namespace Sys2Proof.Machine

def exec (i : Instr) (s : State) : Host.Outcome State Fault Refusal :=
  match i with
  | .nop => Sys2Proof.Machine.execNop s
  | .loadKey len => Sys2Proof.Machine.execLoadKey len s
  | .encrypt len wb => Sys2Proof.Machine.execEncrypt len wb s
  | .decrypt len wb => Sys2Proof.Machine.execDecrypt len wb s
  | .clearKey => Sys2Proof.Machine.execClearKey s
  | .rkRead k => Sys2Proof.Machine.execRkRead k s
  | .roundEnc k => Sys2Proof.Machine.execRoundEnc k s
  | .roundDec k => Sys2Proof.Machine.execRoundDec k s
  | .rotl amount => Sys2Proof.Machine.execRotl amount s
  | .rotr amount => Sys2Proof.Machine.execRotr amount s
  | .scramble => Sys2Proof.Machine.execScramble s
  | .zbit k kw => Sys2Proof.Machine.execZbit k kw s

end Sys2Proof.Machine
end

