-- ==== Sys2Proof/Machine/Engine.lean ====
section
/-! DEFINITION. The engine's Complete step (R87, R104) and one clock cycle: reset, or a completion and
then a transfer (R225, R260). -/

namespace Sys2Proof.Machine

/-- Complete: decode the latched word and run the command; a word that matches no row completes with
ILLEGAL_CMD (R87, R104). -/
def completePending (s : State) : Host.Outcome State Fault Refusal :=
  match decode s.pending with
  | .ok i => exec i s
  | .error _ => .next (completeIllegal s)

/-- The engine's part of a cycle: Complete is enabled exactly when BUSY = 1 (R102). -/
def enginePhase (c : Cycle) (s : State) : Host.Outcome State Fault Refusal :=
  if c.engine && s.busy then completePending s else .next s

/-- Go on from a next state. -/
def mapNext (f : State → State) :
    Host.Outcome State Fault Refusal → Host.Outcome State Fault Refusal
  | .next s => .next (f s)
  | .fault r => .fault r
  | .refused r => .refused r

/-- One rising edge of `clk`. With `rst_n` = 0 the core is in the reset state (R260). Otherwise a
completion of this cycle takes effect first and the transfer sees its result (R225). -/
def clockEdge (c : Cycle) (s : State) : Host.Outcome State Fault Refusal :=
  if c.rstN then mapNext (busPhase c) (enginePhase c s) else .next (resetPhase c s)

/-- The cycle that comes next: when the script is used up, cycles without transfers in which a
pending command completes (R103; log 2). -/
def nextCycle (s : State) : Cycle := s.script.headD Cycle.engineTurn

/-- The state a cycle starts from: its entry is taken off the script, and `rdata` holds nothing until
a read completes (R60; log 4). -/
def beginCycle (s : State) : State := { s with script := s.script.tail, rdata := none }

/-- `s` with a command latched as an accepted CMD write leaves it (R100), and the next cycle one in
which it completes (log 3). -/
def placeCommand (w : Reg32) (s : State) : State :=
  { issue w s with script := Cycle.engineTurn :: s.script }

end Sys2Proof.Machine
end

