-- ==== Sys2Proof/Machine/Step.lean ====
section
/-! DEFINITION. One step of the machine: one clock cycle. The core fetches nothing: the command it runs
next is the word latched in `pending` (R22, R45, R76). -/

namespace Sys2Proof.Machine

/-- One clock cycle of the core and its surroundings. -/
def step (s : State) : Host.Outcome State Fault Refusal :=
  clockEdge (nextCycle s) (beginCycle s)

/-- `s` with the command word `w` (one 32-bit word) latched, so that the next step runs it. It stands
for the CMD write of a host, which loads a program from outside the machine (log 3). -/
def State.withFetchWord (s : State) (nbits w : Nat) : State :=
  placeCommand (BitVec.ofNat 32 (w % 2 ^ nbits)) s

end Sys2Proof.Machine
end

