-- ==== Sys2Proof/Safety.lean ====
section
/-! DEFINITION. The terms the statements use: the invariant of the core, the state a failing command or
an erroring write leaves, the reset state register by register, offsets by their numbers, and the
rounds of a block as a trace. -/

namespace Sys2Proof.Machine

/-- What holds of the core at every step, from any state in which it holds. -/
structure CoreInv (s : State) : Prop where
  /-- Every round key is below `2^WORD_BITS` (R50). -/
  rkMasked : s.rk.all (isWord (bitsOf s)) = true
  /-- RES0 and RES1 are below `2^WORD_BITS` (R41, R50). -/
  resMasked : isWord (bitsOf s) s.res0 = true ∧ isWord (bitsOf s) s.res1 = true
  /-- The round-key file has RK_DEPTH entries (R10, R43). -/
  rkLength : s.rk.length = rkDepth s.params
  /-- DOUT bytes at BLOCK_BYTES and above are 0 (R39). -/
  doutHigh : ∀ j, j < 16 → blockBytes s.params ≤ j → byteAt s.dout j = 0
  /-- With KEYVALID = 0, CFG is 0 and every round key is 0 (R36, R43). -/
  unkeyed : s.keyValid = false → s.cfg = 0 ∧ s.rk = List.replicate (rkDepth s.params) 0
  /-- With KEYVALID = 1, CFG is that of an accepted configuration and `RK[T ..]` is 0 (R36, R43). -/
  keyed : s.keyValid = true → ∃ r ∈ acceptedRows s.params,
    s.cfg = cfgWord s.params r.keyWords r.rounds r.zsel ∧ ∀ i, r.rounds ≤ i → rkAt s.rk i = 0
  /-- With ERR = 0, no error is recorded (R34, R42). -/
  noError : s.err = false → s.errCode = .none ∧ s.errInfo = 0
  /-- With ERR = 1, an error code is recorded (R222). -/
  someError : s.err = true → s.errCode ≠ .none
  /-- BUSY and DONE are never both 1: issue clears DONE, and only completion sets it (R49). -/
  busyNotDone : ¬ (s.busy = true ∧ s.done = true)

/-- What a failing command leaves when its rule lists no write before the raise: the first error
recorded with the command word, BUSY = 0, DONE = 1, and nothing else (R104, R105, R222). -/
def commandErrorState (e : ErrCode) (s : State) : State :=
  { s with
    busy := false
    done := true
    err := true
    errCode := if s.err then s.errCode else e
    errInfo := if s.err then s.errInfo else s.pending }

/-- What an erroring bus write leaves: the first error recorded with the offset, and nothing else
(R222, R223). -/
def writeErrorState (e : ErrCode) (off : Offset) (s : State) : State :=
  { s with
    err := true
    errCode := if s.err then s.errCode else e
    errInfo := if s.err then s.errInfo else (off &&& 0xFC).setWidth 32 }

/-- Every register at the reset value of R23 and no command pending (R260). -/
structure InResetState (s : State) : Prop where
  ctrl : s.doneIE = false ∧ s.errIE = false
  status : s.busy = false ∧ s.keyValid = false ∧ s.done = false ∧ s.err = false ∧ s.errCode = .none
  errInfo : s.errInfo = 0
  cfg : s.cfg = 0
  key : ∀ i : Fin 8, s.key[i] = 0
  din : ∀ i : Fin 4, s.din[i] = 0
  dout : ∀ i : Fin 4, s.dout[i] = 0
  arg : s.arg0 = 0 ∧ s.arg1 = 0
  res : s.res0 = 0 ∧ s.res1 = 0
  rk : s.rk = List.replicate (rkDepth s.params) 0

/-- ID, VERSION, CAPS, CFG, ERRINFO, DOUT0-3, RES0, RES1, and the unmapped offsets, by number (R23,
R220). -/
def readOnlyOffset (off : Offset) : Prop :=
  let o := (off &&& 0xFC).toNat
  o = 0x00 ∨ o = 0x04 ∨ o = 0x08 ∨ o = 0x18 ∨ o = 0x1C ∨ (0x50 ≤ o ∧ o ≤ 0x5C) ∨ 0x70 ≤ o

/-- CMD, KEY0-7, DIN0-3, ARG0 and ARG1, by number (R23, R48). -/
def lockedOffset (off : Offset) : Prop :=
  let o := (off &&& 0xFC).toNat
  o = 0x14 ∨ (0x20 ≤ o ∧ o ≤ 0x4C) ∨ (0x60 ≤ o ∧ o ≤ 0x6C)

/-- CFG, DOUT0-3, RES0 and RES1, by number (R23, R48). -/
def resultOffset (off : Offset) : Prop :=
  let o := (off &&& 0xFC).toNat
  o = 0x18 ∨ (0x50 ≤ o ∧ o ≤ 0x5C) ∨ (0x70 ≤ o ∧ o ≤ 0x7C)

/-- `b 0, b 1, ..` are the blocks before each round of Simon_enc, the round written out (R182, R183). -/
def EncTrace (n : Nat) (k : List Word) (T : Nat) (b : Nat → Block) : Prop :=
  ∀ i, i < T →
    (b (i + 1)).x = (b i).y ^^^ ((rotl n (b i).x 1 &&& rotl n (b i).x 8) ^^^ rotl n (b i).x 2)
      ^^^ rkAt k i ∧
    (b (i + 1)).y = (b i).x

/-- `b T, b (T - 1), .., b 0` are the blocks before each inverse round of Simon_dec, from round T - 1
down to round 0, the round written out (R182, R183). -/
def DecTrace (n : Nat) (k : List Word) (T : Nat) (b : Nat → Block) : Prop :=
  ∀ i, i < T →
    (b i).x = (b (i + 1)).y ∧
    (b i).y = (b (i + 1)).x ^^^ ((rotl n (b (i + 1)).y 1 &&& rotl n (b (i + 1)).y 8)
      ^^^ rotl n (b (i + 1)).y 2) ^^^ rkAt k i

/-- One pair of the paired-round convention, rounds i and i + 1, forward (R187). -/
def pairEnc (n : Nat) (k : List Word) (i : Nat) (b : Block) : Block :=
  let y := b.y ^^^ scramble n b.x ^^^ rkAt k i
  ⟨b.x ^^^ scramble n y ^^^ rkAt k (i + 1), y⟩

/-- One pair of the paired-round convention, rounds i and i + 1, backward (R187). -/
def pairDec (n : Nat) (k : List Word) (i : Nat) (b : Block) : Block :=
  let x := b.x ^^^ scramble n b.y ^^^ rkAt k (i + 1)
  ⟨x, b.y ^^^ scramble n x ^^^ rkAt k i⟩

/-- The paired convention forward, over `pairs` pairs from round 0 on (R187). -/
def pairedEnc (n : Nat) (k : List Word) : Nat → Block → Block
  | 0, b => b
  | pairs + 1, b => pairEnc n k (2 * pairs) (pairedEnc n k pairs b)

/-- The paired convention backward, over `pairs` pairs down to round 0 (R187). -/
def pairedDec (n : Nat) (k : List Word) : Nat → Block → Block
  | 0, b => b
  | pairs + 1, b => pairedDec n k pairs (pairDec n k (2 * pairs) b)

/-- What ENCRYPT and DECRYPT write when they succeed: `out` to DOUT with zeros above the block, with
`wb` also `out` to the block bytes of DIN, BUSY, DONE, and nothing else (R38, R39, R200). -/
def WritesBlock (out : List Byte) (wb : Bool) (s t : State) : Prop :=
  t = { s with dout := t.dout, din := t.din, busy := false, done := true } ∧
  (∀ j, j < 16 → byteAt t.dout j = if j < blockBytes s.params then out.getD j 0 else 0) ∧
  (∀ j, j < 16 → byteAt t.din j =
    if wb = true ∧ j < blockBytes s.params then out.getD j 0 else byteAt s.din j)

/-- The recurrence of R165 at index i, read off the finished sequence `k`. -/
def KeyRecurrence (n m j : Nat) (k : List Word) (i : Nat) : Prop :=
  ∃ tmp : Word,
    tmp = (if m = 4 then rotr n (rkAt k (i - 1)) 3 ^^^ rkAt k (i - 3) else rotr n (rkAt k (i - 1)) 3) ∧
    rkAt k i = maskN n (~~~ rkAt k (i - m) ^^^ (tmp ^^^ rotr n tmp 1)
      ^^^ BitVec.ofNat 64 (ctBit j (i - m)).toNat ^^^ 3)

/-- A bit sequence has linear complexity 5: a linear recurrence of length 5 generates it and none of
length 4 does (R122). -/
def LinearComplexity5 (u : Nat → Bool) : Prop :=
  (∃ a b c d e : Bool, ∀ i, u (i + 5) = ((a && u i) ^^ (b && u (i + 1)) ^^ (c && u (i + 2))
    ^^ (d && u (i + 3)) ^^ (e && u (i + 4)))) ∧
  ¬ ∃ a b c d : Bool, ∀ i, u (i + 4) = ((a && u i) ^^ (b && u (i + 1)) ^^ (c && u (i + 2))
    ^^ (d && u (i + 3)))

/-- `reads off v s`: a bus read of the offset in `s` puts `v` on rdata (R15, R60). -/
def reads (off : Offset) (v : Reg32) (s : State) : Prop := (busRead off s).rdata = some v

/-- The cycle is a CTRL write with bit 31 = 1 or has `rst_n` = 0 (R260, R261). -/
def resetsInCycle (c : Cycle) : Bool :=
  !c.rstN || (c.sel && c.write && (c.addr &&& 0xFC) == 0x0C && c.wdata.getLsbD 31)

end Sys2Proof.Machine
end

