-- ==== Sys2Proof/Certificates/Slice0/Obligations.lean ====
section
/-! DEFINITION. The statements for the provers: what the numbered rules of spec/ say the core does. -/

open Sys2Proof Sys2Proof.Machine

/-! ## Encoding -/

/-- R86, R90: no bit of an operand is lost between a command and its word. -/
def Obligations.DecodeOfEncode : Prop :=
  ∀ i : Instr, i.wellFormed = true → decode (encode i) = .ok i

/-- R86, R87: a legal word is the word of exactly the command it decodes to. -/
def Obligations.EncodeOfDecode : Prop :=
  ∀ (w : Reg32) (i : Instr), decode w = .ok i → i.wellFormed = true ∧ encode i = w

/-- R86: a word that matches a row's mask and match is that row's command, with the operands of the
row's fields; no word matches two rows, and a word that matches none is no command. -/
def Obligations.RowWordsDecode : Prop :=
  (∀ w : Reg32, w &&& 0xFFFFFFFF = 0x00000000 → decode w = .ok .nop) ∧
  (∀ w : Reg32, w &&& 0xFFFF00FF = 0x00000001 → decode w = .ok (.loadKey (w.toNat / 256 % 256))) ∧
  (∀ w : Reg32, w &&& 0xFEFF00FF = 0x00000002 →
    decode w = .ok (.encrypt (w.toNat / 256 % 256) (w.getLsbD 24))) ∧
  (∀ w : Reg32, w &&& 0xFEFF00FF = 0x00000003 →
    decode w = .ok (.decrypt (w.toNat / 256 % 256) (w.getLsbD 24))) ∧
  (∀ w : Reg32, w &&& 0xFFFFFFFF = 0x00000004 → decode w = .ok .clearKey) ∧
  (∀ w : Reg32, w &&& 0xFFFF00FF = 0x00000005 → decode w = .ok (.rkRead (w.toNat / 256 % 256))) ∧
  (∀ w : Reg32, w &&& 0xFFFF00FF = 0x00000006 → decode w = .ok (.roundEnc (w.toNat / 256 % 256))) ∧
  (∀ w : Reg32, w &&& 0xFFFF00FF = 0x00000007 → decode w = .ok (.roundDec (w.toNat / 256 % 256))) ∧
  (∀ w : Reg32, w &&& 0xFFFF00FF = 0x00000008 → decode w = .ok (.rotl (w.toNat / 256 % 256))) ∧
  (∀ w : Reg32, w &&& 0xFFFF00FF = 0x00000009 → decode w = .ok (.rotr (w.toNat / 256 % 256))) ∧
  (∀ w : Reg32, w &&& 0xFFFFFFFF = 0x0000000A → decode w = .ok .scramble) ∧
  (∀ w : Reg32, w &&& 0xFFF800FF = 0x0000000B →
    decode w = .ok (.zbit (w.toNat / 256 % 256) (w.toNat / 65536 % 8))) ∧
  (∀ (w : Reg32) (r r' : OpcodeRow), r ∈ opcodeRows → r' ∈ opcodeRows →
    w &&& r.mask = r.mtch → w &&& r'.mask = r'.mtch → r.mtch = r'.mtch) ∧
  (∀ (w : Reg32) (i : Instr), decode w = .ok i → ∃ r ∈ opcodeRows, w &&& r.mask = r.mtch)

/-- R88: the reserved OP values are no commands, and such a pending word completes with ILLEGAL_CMD; the
all-zero word is NOP; the all-ones word is illegal. -/
def Obligations.ReservedOpsAreIllegal : Prop :=
  (∀ w : Reg32, 0x0C ≤ w.toNat % 256 → decode w = .error .reservedOp ∧
    ∀ s : State, s.pending = w → completePending s = .next (commandErrorState .illegalCmd s)) ∧
  decode 0x00000000 = .ok .nop ∧ decode 0xFFFFFFFF = .error .reservedOp

/-- R86: words written out bit by bit from the encodings of spec/opcode_table.json. -/
def Obligations.SpecWordsDecode : Prop :=
  decode 0b00000000000000000000100100000001 = .ok (.loadKey 9) ∧
  decode 0b00000001000000000000011000000010 = .ok (.encrypt 6 true) ∧
  decode 0b00000000000000000000110000000011 = .ok (.decrypt 12 false) ∧
  decode 0b00000000000000000010001100000101 = .ok (.rkRead 35) ∧
  decode 0b00000000000000000001011100001000 = .ok (.rotl 23) ∧
  decode 0b00000000000001001111111100001011 = .ok (.zbit 255 4)

/-! ## Steps, completion and order -/

/-- R104: in a cycle in which the engine completes and `rst_n` = 1, the step is `exec` of the decoded
command, and then the transfer of the cycle, if it has one; and a state with a command placed runs
exactly that command. -/
def Obligations.StepRunsDecodedCommand : Prop :=
  (∀ (s : State) (i : Instr), s.busy = true → decode s.pending = .ok i →
    (nextCycle s).rstN = true → (nextCycle s).engine = true →
    step s = mapNext (busPhase (nextCycle s)) (exec i { s with script := s.script.tail, rdata := none })) ∧
  (∀ (s : State) (i : Instr), s.busy = true → decode s.pending = .ok i → s.script = [] →
    step s = exec i { s with rdata := none }) ∧
  (∀ (s : State) (w : Nat) (i : Instr), decode (BitVec.ofNat 32 w) = .ok i →
    step (s.withFetchWord 32 w) =
      exec i { s with pending := BitVec.ofNat 32 w, busy := true, done := false, rdata := none })

/-- R87: a pending word that matches no row completes with ILLEGAL_CMD and changes nothing else; a word
with a nonzero reserved bit matches no row, and neither do the two examples of the rule. -/
def Obligations.IllegalWordReports : Prop :=
  (∀ (s : State) (rest : List Cycle), s.busy = true →
    (∀ r ∈ opcodeRows, s.pending &&& r.mask ≠ r.mtch) → s.script = Cycle.engineTurn :: rest →
    step s = .next (commandErrorState .illegalCmd { s with script := rest, rdata := none })) ∧
  (∀ w : Reg32, w &&& 0xFEF80000 ≠ 0 → ∀ r ∈ opcodeRows, w &&& r.mask ≠ r.mtch) ∧
  decode 0x00000100 = .error .nonzeroUnusedBits ∧ decode 0x01000008 = .error .nonzeroUnusedBits

/-- R225: in a cycle with both a completion and a transfer, the completion takes effect first and the
transfer sees its result: a CMD write is accepted, and a STATUS read sees BUSY = 0. -/
def Obligations.CompletionBeforeTransfer : Prop :=
  (∀ (s : State) (c : Cycle) (rest : List Cycle),
    s.busy = true → c.rstN = true → c.engine = true → s.script = c :: rest →
    ∃ u, completePending { s with script := rest, rdata := none } = .next u ∧
      step s = .next (busPhase c u)) ∧
  (∀ (s : State) (off : Offset) (v : Reg32) (rest : List Cycle),
    s.busy = true → off &&& 0xFC = 0x14 → s.script = ⟨true, true, true, off, v, true⟩ :: rest →
    ∃ t, step s = .next t ∧ t.busy = true ∧ t.pending = v) ∧
  (∀ (s : State) (off : Offset) (v : Reg32) (rest : List Cycle),
    s.busy = true → off &&& 0xFC = 0x10 → s.script = ⟨true, true, false, off, v, true⟩ :: rest →
    ∃ t r, step s = .next t ∧ t.rdata = some r ∧ r.getLsbD 0 = false)

/-- R102: in a cycle in which the engine may act it does nothing with BUSY = 0, and with BUSY = 1 it
completes the command, whatever the rest of the state and the transfer of the cycle are. -/
def Obligations.CompleteEnabledByBusy : Prop :=
  ∀ (s : State) (c : Cycle) (rest : List Cycle),
    c.rstN = true → c.engine = true → s.script = c :: rest →
    (s.busy = false → step s = .next (busPhase c { s with script := rest, rdata := none })) ∧
    (s.busy = true → ∃ u, step s = .next (busPhase c u) ∧ u.busy = false ∧ u.done = true)

/-- R226: no step ever stops the core. -/
def Obligations.StepAlwaysNext : Prop := ∀ s : State, ∃ t, step s = .next t

/-- R103, over the cycles of the script and one more (log 2): a pending command completes unless a
reset discards it, so BUSY = 0 after them. -/
def Obligations.PendingCommandEnds : Prop :=
  ∀ s : State, ∃ t, Host.Core.run core (s.script.length + 1) s = .next t ∧ t.busy = false ∧ t.script = []

/-- R101, R104: while a command stays pending, nothing Execute reads changes, and no result does. -/
def Obligations.PendingCommandKeepsItsInputs : Prop :=
  ∀ s t : State, s.busy = true → (nextCycle s).engine = false → resetsInCycle (nextCycle s) = false →
    step s = .next t →
    t.busy = true ∧ t.pending = s.pending ∧ t.key = s.key ∧ t.din = s.din ∧ t.arg0 = s.arg0 ∧
    t.arg1 = s.arg1 ∧ t.rk = s.rk ∧ t.cfg = s.cfg ∧ t.keyValid = s.keyValid ∧ t.dout = s.dout ∧
    t.res0 = s.res0 ∧ t.res1 = s.res1 ∧ (t.done = true → s.done = true)

/-! ## Invariants and reset -/

/-- The state after reset of every build meets the invariant. -/
def Obligations.ResetMeetsInvariant : Prop :=
  (∀ p : Params, CoreInv (State.resetOf p)) ∧ CoreInv State.reset

/-- R8, R36, R39, R42, R43, R50: every step keeps the invariant, and the parameters of the build. -/
def Obligations.StepKeepsInvariant : Prop :=
  ∀ s t : State, step s = .next t → t.params = s.params ∧ (CoreInv s → CoreInv t)

/-- R260: in a cycle with `rst_n` = 0 the core enters the reset state, writes are ignored, and a read
returns 0. -/
def Obligations.HardwareReset : Prop :=
  ∀ (s : State) (c : Cycle) (rest : List Cycle), s.script = c :: rest → c.rstN = false →
    ∃ t, step s = .next t ∧ InResetState t ∧ irq t = false ∧ t.params = s.params ∧ t.script = rest ∧
      t.rdata = if c.sel = true ∧ c.write = false then some 0 else none

/-- R261: a CTRL write with bit 31 = 1 puts the core into the reset state at any time; the other bits of
the write are discarded. The discarded command never completes: a cycle in which the engine may act finds
none pending, and the registers keep their reset values. The core leaves the reset state at once: the
transfer of the next cycle acts as on any idle core, so a CMD write in it is accepted. -/
def Obligations.SoftReset : Prop :=
  ∀ (s : State) (off : Offset) (v : Reg32), off &&& 0xFC = 0x0C → v.getLsbD 31 = true →
    InResetState (busWrite off v s) ∧ (busWrite off v s).params = s.params ∧
    (busWrite off v s).script = s.script ∧
    (∀ rest : List Cycle, s.script = Cycle.engineTurn :: rest →
      ∃ t, step (busWrite off v s) = .next t ∧ InResetState t) ∧
    (∀ (c : Cycle) (rest : List Cycle), c.rstN = true → s.script = c :: rest →
      step (busWrite off v s) =
        .next (busPhase c { busWrite off v s with script := rest, rdata := none })) ∧
    (∀ (off' : Offset) (w : Reg32) (rest : List Cycle), off' &&& 0xFC = 0x14 →
      s.script = Cycle.busWrite off' w :: rest →
      ∃ t, step (busWrite off v s) = .next t ∧ t.busy = true ∧ t.pending = w)

/-! ## The register interface -/

/-- R100: an accepted CMD write latches the word, sets BUSY, clears DONE, and changes nothing else. -/
def Obligations.IssueCommand : Prop :=
  ∀ (s : State) (off : Offset) (v : Reg32), s.busy = false → off &&& 0xFC = 0x14 →
    busWrite off v s = { s with pending := v, busy := true, done := false }

/-- R222, R223: an error report keeps the first error since ERR was last cleared; a write to a read-only
or unmapped offset at any time, and a write to a locked register while BUSY = 1, is such a report with
the offset as its information word, and changes nothing else; a command error is such a report with the
command word at the completion, which sets DONE. -/
def Obligations.ErroringWriteOnlyReports : Prop :=
  (∀ (e : ErrCode) (info : Reg32) (s : State),
    (s.err = false → reportError e info s = { s with err := true, errCode := e, errInfo := info }) ∧
    (s.err = true → reportError e info s = s)) ∧
  (∀ (s : State) (off : Offset) (v : Reg32), readOnlyOffset off →
    busWrite off v s = writeErrorState .access off s) ∧
  (∀ (s : State) (off : Offset) (v : Reg32), lockedOffset off → s.busy = true →
    busWrite off v s = writeErrorState .busyWrite off s) ∧
  (∀ (e : ErrCode) (s : State), complete (.raised e s) = commandErrorState e s)

/-- R33: CTRL reads its two enables and zeros; a write with bit 31 = 0 sets them from bits 0 and 1 and
changes nothing else, also while BUSY = 1; a write with bit 31 = 1 is only the reset; DONE_IE lets DONE
drive the interrupt and ERR_IE lets ERR; both are 0 after reset. -/
def Obligations.ControlRegister : Prop :=
  ∀ (s : State) (off : Offset) (v : Reg32), off &&& 0xFC = 0x0C →
    (∃ r, reads off r s ∧ r.getLsbD 0 = s.doneIE ∧ r.getLsbD 1 = s.errIE ∧
      ∀ i, 2 ≤ i → r.getLsbD i = false) ∧
    (v.getLsbD 31 = false →
      busWrite off v s = { s with doneIE := v.getLsbD 0, errIE := v.getLsbD 1 }) ∧
    (v.getLsbD 31 = true → InResetState (busWrite off v s)) ∧
    (s.doneIE = true → s.done = true → irq s = true) ∧ (s.errIE = true → s.err = true → irq s = true) ∧
    (State.resetOf s.params).doneIE = false ∧ (State.resetOf s.params).errIE = false

/-- R34, R220: the layout of STATUS at any time, also while BUSY = 1, with the numbers of the error codes
in ERRCODE. -/
def Obligations.StatusLayout : Prop :=
  ∀ (s : State) (off : Offset), off &&& 0xFC = 0x10 → ∃ r, reads off r s ∧
    r.getLsbD 0 = s.busy ∧ r.getLsbD 1 = s.keyValid ∧ r.getLsbD 2 = s.done ∧ r.getLsbD 3 = s.err ∧
    r.toNat / 16 % 16 = 0 ∧
    r.toNat / 256 = match s.errCode with
      | .none => 0
      | .illegalCmd => 1
      | .config => 2
      | .noKey => 3
      | .blockSize => 4
      | .badOperand => 5
      | .busyWrite => 6
      | .access => 7

/-- R34, R227: writing 1 to STATUS bit 2 clears DONE, writing 1 to bit 3 clears ERR, ERRCODE and
ERRINFO together, and nothing else changes, also while BUSY = 1. -/
def Obligations.StatusWriteClears : Prop :=
  ∀ (s : State) (off : Offset) (v : Reg32), off &&& 0xFC = 0x10 →
    (v.getLsbD 3 = true → busWrite off v s =
      { s with done := s.done && !v.getLsbD 2, err := false, errCode := .none, errInfo := 0 }) ∧
    (v.getLsbD 3 = false → busWrite off v s = { s with done := s.done && !v.getLsbD 2 })

/-- R30, R31, R32: ID, VERSION and CAPS read their constants at any time. -/
def Obligations.IdentificationRegisters : Prop :=
  ∀ s : State, reads 0x00 0x53494D4E s ∧ reads 0x04 0x00010000 s ∧
    (wordBits s.params = 24 → reads 0x08 0x00060618 s) ∧
    (wordBits s.params = 48 → reads 0x08 0x00030C30 s) ∧
    (wordBits s.params = 16 → reads 0x08 0x00040410 s) ∧
    (wordBits s.params = 32 → reads 0x08 0x00060820 s) ∧
    (wordBits s.params = 64 → reads 0x08 0x00071040 s)

/-- R23, R24, R36 to R42, R48: what the registers read at their offsets: ERRINFO, DIN and ARG at any time,
CFG, DOUT and RES with BUSY = 0; the write-only registers and the unmapped offsets read 0 at any time. -/
def Obligations.RegisterMapReads : Prop :=
  (∀ s : State, reads 0x1C s.errInfo s ∧
    (∀ i : Fin 4, reads (BitVec.ofNat 8 (0x40 + 4 * i)) s.din[i] s) ∧
    reads 0x60 (s.arg0.extractLsb' 0 32) s ∧ reads 0x64 (s.arg0.extractLsb' 32 32) s ∧
    reads 0x68 (s.arg1.extractLsb' 0 32) s ∧ reads 0x6C (s.arg1.extractLsb' 32 32) s) ∧
  (∀ s : State, s.busy = false → reads 0x18 s.cfg s ∧
    (∀ i : Fin 4, reads (BitVec.ofNat 8 (0x50 + 4 * i)) s.dout[i] s) ∧
    reads 0x70 (s.res0.extractLsb' 0 32) s ∧ reads 0x74 (s.res0.extractLsb' 32 32) s ∧
    reads 0x78 (s.res1.extractLsb' 0 32) s ∧ reads 0x7C (s.res1.extractLsb' 32 32) s) ∧
  (∀ (s : State) (off : Offset),
    ((off &&& 0xFC).toNat = 0x14 ∨ (0x20 ≤ (off &&& 0xFC).toNat ∧ (off &&& 0xFC).toNat ≤ 0x3C) ∨
      0x80 ≤ (off &&& 0xFC).toNat) → reads off 0 s)

/-- R70: a read changes no register; where its value is defined, a second read returns the same. -/
def Obligations.ReadsChangeNoRegister : Prop :=
  ∀ (s : State) (off : Offset), ∃ (v : Reg32) (d : Nat),
    busRead off s = { s with rdata := some v, draws := d } ∧
    (¬ (s.busy = true ∧ resultOffset off) → d = s.draws ∧ reads off v (busRead off s))

/-- R48, U1: while BUSY = 1 a read of DOUT, RES or CFG returns a fresh draw (the model's free value,
log 5). -/
def Obligations.ResultReadsWhileBusyAreDraws : Prop :=
  ∀ (s : State) (off : Offset), s.busy = true → resultOffset off →
    busRead off s = { s with rdata := some (Config.freeRead s.draws), draws := s.draws + 1 }

/-- R24, R38, R40: an idle DIN or ARG register reads back the value written, every other offset reads as
before, and the write changes nothing else of the core: of DIN the one register, of ARG0 or ARG1 the one
half. -/
def Obligations.DataRegistersReadBack : Prop :=
  ∀ (s : State) (off : Offset) (v : Reg32), s.busy = false →
    (((0x40 ≤ (off &&& 0xFC).toNat ∧ (off &&& 0xFC).toNat ≤ 0x4C) ∨
      (0x60 ≤ (off &&& 0xFC).toNat ∧ (off &&& 0xFC).toNat ≤ 0x6C)) →
      reads off v (busWrite off v s) ∧
      ∀ off' : Offset, off' &&& 0xFC ≠ off &&& 0xFC →
        (busRead off' (busWrite off v s)).rdata = (busRead off' s).rdata) ∧
    (∀ i : Fin 4, off &&& 0xFC = BitVec.ofNat 8 (0x40 + 4 * i) →
      busWrite off v s = { s with din := s.din.set i v }) ∧
    (off &&& 0xFC = 0x60 → busWrite off v s = { s with arg0 := s.arg0.extractLsb' 32 32 ++ v }) ∧
    (off &&& 0xFC = 0x64 → busWrite off v s = { s with arg0 := v ++ s.arg0.extractLsb' 0 32 }) ∧
    (off &&& 0xFC = 0x68 → busWrite off v s = { s with arg1 := s.arg1.extractLsb' 32 32 ++ v }) ∧
    (off &&& 0xFC = 0x6C → busWrite off v s = { s with arg1 := v ++ s.arg1.extractLsb' 0 32 })

/-- R63: the little-endian byte view of KEY, DIN and DOUT. An idle write of a KEY or DIN register changes
its four bytes and nothing else. -/
def Obligations.ByteViewOfRegisters : Prop :=
  (∀ (s : State) (b : Nat), b < 4 →
    (∀ i : Fin 8, byteAt s.key (4 * i + b) = s.key[i].extractLsb' (8 * b) 8) ∧
    (∀ i : Fin 4, byteAt s.din (4 * i + b) = s.din[i].extractLsb' (8 * b) 8) ∧
    (∀ i : Fin 4, byteAt s.dout (4 * i + b) = s.dout[i].extractLsb' (8 * b) 8)) ∧
  (∀ (s : State) (i : Fin 8) (v : Reg32), s.busy = false → ∃ t,
    busWrite (BitVec.ofNat 8 (0x20 + 4 * i)) v s = t ∧ t = { s with key := t.key } ∧
    ∀ j, j < 32 → byteAt t.key j =
      if j / 4 = i then v.extractLsb' (8 * (j % 4)) 8 else byteAt s.key j) ∧
  (∀ (s : State) (i : Fin 4) (v : Reg32), s.busy = false → ∃ t,
    busWrite (BitVec.ofNat 8 (0x40 + 4 * i)) v s = t ∧ t = { s with din := t.din } ∧
    ∀ j, j < 16 → byteAt t.din j =
      if j / 4 = i then v.extractLsb' (8 * (j % 4)) 8 else byteAt s.din j)

/-- R67: `addr[1:0]` is ignored: a transfer acts on the register at `off & 0xFC`. -/
def Obligations.LowAddressBitsIgnored : Prop :=
  ∀ (s : State) (off : Offset) (v : Reg32),
    busWrite off v s = busWrite (off &&& 0xFC) v s ∧ busRead off s = busRead (off &&& 0xFC) s

/-- R230: the interrupt output, and what clears or masks its two sources. -/
def Obligations.InterruptOutput : Prop :=
  (∀ s : State, irq s = true ↔
    (s.doneIE = true ∧ s.done = true) ∨ (s.errIE = true ∧ s.err = true)) ∧
  (∀ (s : State) (v : Reg32), v.getLsbD 2 = true →
    irq (busWrite 0x10 v s) = (s.errIE && s.err && !v.getLsbD 3)) ∧
  (∀ (s : State) (v : Reg32), v.getLsbD 3 = true →
    irq (busWrite 0x10 v s) = (s.doneIE && s.done && !v.getLsbD 2)) ∧
  (∀ (s : State) (v : Reg32), v.getLsbD 31 = false → irq (busWrite 0x0C v s) =
    ((v.getLsbD 0 && s.done) || (v.getLsbD 1 && s.err))) ∧
  (∀ (s : State) (v : Reg32), s.busy = false → irq (busWrite 0x14 v s) = (s.errIE && s.err)) ∧
  (∀ p : Params, irq (State.resetOf p) = false)

/-- R11: the 256 bytes from BASE_ADDR on, whatever BASE_ADDR is, reach the core at their offset; no
other address makes a transfer. -/
def Obligations.PlatformAddressMap : Prop :=
  (∀ (off : Offset) (v : Reg32),
    Cycle.platformWrite (Config.baseAddr + off.toNat) v = Cycle.busWrite off v ∧
    Cycle.platformRead (Config.baseAddr + off.toNat) = Cycle.busRead off) ∧
  (∀ (a : Nat) (v : Reg32) (s : State),
    (a < Config.baseAddr ∨ Config.baseAddr + 256 ≤ a) →
    busPhase (Cycle.platformWrite a v) s = s ∧ busPhase (Cycle.platformRead a) s = s)

/-! ## Builds and constants -/

/-- R8, R9, R10: the builds that exist (word sizes 24 and 48 in both builds, 16, 32 and 64 only with
EXT_CONFIGS) and their derived parameters. -/
def Obligations.BuildsAndParameters : Prop :=
  (∀ (n : Nat) (ext : Bool),
    ((∃ p, paramsOf n ext = some p) ↔
      n = 24 ∨ n = 48 ∨ (ext = true ∧ (n = 16 ∨ n = 32 ∨ n = 64))) ∧
    ∀ p, paramsOf n ext = some p → wordBits p = n ∧ extConfigs p = ext) ∧
  ∀ p : Params, (wordBits p, wordBytes p, blockBytes p, kwSet p, rkDepth p) ∈
    [ (24, 3, 6, [3, 4], 36), (48, 6, 12, [2, 3], 54), (16, 2, 4, [4], 32), (32, 4, 8, [3, 4], 44),
      (64, 8, 16, [2, 3, 4], 72) ]

/-- R120, R123: CT_lookup recognizes exactly the rows of the configuration table with the word size of
the build, the rows of word sizes 16, 32 and 64 only with EXT_CONFIGS; CT_bit reduces its index mod 62. -/
def Obligations.ConfigurationTable : Prop :=
  (∀ (p : Params) (m T j : Nat), ctLookup p m = some (T, j) ↔
    (wordBits p, m, T, j) ∈ [ (24, 3, 36, 0), (24, 4, 36, 1), (48, 2, 52, 2), (48, 3, 54, 3) ] ∨
    (extConfigs p = true ∧ (wordBits p, m, T, j) ∈
      [ (16, 4, 32, 0), (32, 3, 42, 2), (32, 4, 44, 3), (64, 2, 68, 2), (64, 3, 69, 3),
        (64, 4, 72, 4) ])) ∧
  (∀ j i : Nat, ctBit j i = ctBit j (i % 62))

/-- R121, R123: the five literals as R121 writes them, `z_j[0]` leftmost, and the reduction mod 62. -/
def Obligations.ZSequenceLiterals : Prop :=
  ∀ i : Nat,
    ctBit 0 i = Nat.testBit 0b11111010001001010110000111001101111101000100101011000011100110 (61 - i % 62) ∧
    ctBit 1 i = Nat.testBit 0b10001110111110010011000010110101000111011111001001100001011010 (61 - i % 62) ∧
    ctBit 2 i = Nat.testBit 0b10101111011100000011010010011000101000010001111110010110110011 (61 - i % 62) ∧
    ctBit 3 i = Nat.testBit 0b11011011101011000110010111100000010010001010011100110100001111 (61 - i % 62) ∧
    ctBit 4 i = Nat.testBit 0b11010001111001101011011000100000010111000011001010010011101111 (61 - i % 62)

/-- R122: the structure of the z-sequences. -/
def Obligations.ZSequenceStructure : Prop :=
  (∀ i, ctBit 0 (i + 31) = ctBit 0 i) ∧ (∀ i, ctBit 1 (i + 31) = ctBit 1 i) ∧
  (∀ i, ctBit 2 i = (ctBit 0 i ^^ decide (i % 2 = 1))) ∧
  (∀ i, ctBit 3 i = (ctBit 1 i ^^ decide (i % 2 = 1))) ∧
  (∀ i, (ctBit 4 (i + 31) ^^ decide ((i + 31) % 2 = 1)) = (ctBit 4 i ^^ decide (i % 2 = 1))) ∧
  LinearComplexity5 (ctBit 0) ∧ LinearComplexity5 (ctBit 1) ∧
  LinearComplexity5 (fun i => ctBit 2 i ^^ decide (i % 2 = 1)) ∧
  LinearComplexity5 (fun i => ctBit 3 i ^^ decide (i % 2 = 1)) ∧
  LinearComplexity5 (fun i => ctBit 4 i ^^ decide (i % 2 = 1))

/-! ## Words, rounds and the key schedule -/

/-- R142: a rotation moves bit p to bit (p + s) mod n or (p - s) mod n, and its result is a Word. -/
def Obligations.RotationMovesBits : Prop :=
  ∀ (n s p : Nat) (w : Word), 0 < n → n ≤ 64 → s < n → p < n → isWord n w = true →
    (rotl n w s).getLsbD ((p + s) % n) = w.getLsbD p ∧
    (rotr n w s).getLsbD ((p + n - s) % n) = w.getLsbD p ∧
    isWord n (rotl n w s) = true ∧ isWord n (rotr n w s) = true

/-- R143: decode and encode are inverse, and so are the two rotations. -/
def Obligations.CodecRoundTrip : Prop :=
  (∀ (k : Nat) (b : List Byte), k ≤ 8 → b.length = k →
    leEncode k (BitVec.ofNat 64 (leDecode b)) = b) ∧
  (∀ (k : Nat) (w : Word), k ≤ 8 → w.toNat < 2 ^ (8 * k) → leDecode (leEncode k w) = w.toNat) ∧
  (∀ (n s : Nat) (w : Word), 0 < n → n ≤ 64 → s < n → isWord n w = true →
    rotr n (rotl n w s) s = w ∧ rotl n (rotr n w s) s = w)

/-- R182, R183: the round and its inverse, and the loops over them, written out; the inverse round
undoes the round, and Simon_dec undoes Simon_enc under the same round-key sequence; both also the other
way round. -/
def Obligations.SimonDecInvertsEnc : Prop :=
  (∀ (n T : Nat) (k : Word) (ks : List Word) (x y : Word) (b : Block),
    rnd n k ⟨x, y⟩ = ⟨y ^^^ scramble n x ^^^ k, x⟩ ∧
    rndInv n k ⟨x, y⟩ = ⟨y, x ^^^ scramble n y ^^^ k⟩ ∧
    simonEnc n ks 0 b = b ∧ simonDec n ks 0 b = b ∧
    simonEnc n ks (T + 1) b = rnd n (rkAt ks T) (simonEnc n ks T b) ∧
    simonDec n ks (T + 1) b = simonDec n ks T (rndInv n (rkAt ks T) b)) ∧
  (∀ (n : Nat) (k : Word) (b : Block), rndInv n k (rnd n k b) = b ∧ rnd n k (rndInv n k b) = b) ∧
  (∀ (n T : Nat) (k : List Word) (b : Block),
    simonDec n k T (simonEnc n k T b) = b ∧ simonEnc n k T (simonDec n k T b) = b)

/-- R187: for an even number of rounds the paired-round convention computes the same blocks; the round
counts of the default build are even. -/
def Obligations.PairedRoundsAgree : Prop :=
  (∀ (n pairs : Nat) (k : List Word) (b : Block),
    pairedEnc n k pairs b = simonEnc n k (2 * pairs) b ∧
    pairedDec n k pairs b = simonDec n k (2 * pairs) b) ∧
  (∀ p : Params, extConfigs p = false → ∀ r ∈ acceptedRows p, r.rounds % 2 = 0)

/-- R166: step e of the key schedule as an XOR with `2^n - 4`, and step a as a rotation left. -/
def Obligations.KeyScheduleForms : Prop :=
  ∀ (n : Nat) (a : Word), 3 < n → n ≤ 64 → isWord n a = true →
    maskN n (~~~ a) ^^^ 3 = a ^^^ BitVec.ofNat 64 (2 ^ n - 4) ∧
    (∀ tmp : Word, ∀ bit : Bool, isWord n tmp = true →
      maskN n (~~~ a ^^^ tmp ^^^ BitVec.ofNat 64 bit.toNat ^^^ 3) =
        a ^^^ BitVec.ofNat 64 (2 ^ n - 4) ^^^ BitVec.ofNat 64 bit.toNat ^^^ tmp) ∧
    rotr n a 3 = rotl n a (n - 3)

/-! ## The commands -/

/-- R106: NOP changes only BUSY and DONE; a word with OP = 0x00 and another bit set is no command. -/
def Obligations.NopCommand : Prop :=
  (∀ s : State, exec .nop s = .next { s with busy := false, done := true }) ∧
  decode 0x00000000 = .ok .nop ∧
  (∀ w : Reg32, w.toNat % 256 = 0 → w ≠ 0 → decode w = .error .nonzeroUnusedBits)

/-- R162: CLEAR_KEY clears KEYVALID, CFG, RK and the key bytes and nothing else; a word with
OP = 0x04 and another bit set is no command. -/
def Obligations.ClearKeyCommand : Prop :=
  (∀ s : State, exec .clearKey s = .next
    { s with
      keyValid := false
      cfg := 0
      rk := List.replicate (rkDepth s.params) 0
      key := Vector.replicate 8 0
      busy := false
      done := true }) ∧
  decode 0x00000004 = .ok .clearKey ∧
  (∀ w : Reg32, w.toNat % 256 = 4 → w ≠ 4 → decode w = .error .nonzeroUnusedBits)

/-- R160, R164, R165: LOAD_KEY with an accepted length fills RK by the split of the key and the
recurrence, then zeros, and sets CFG, KEYVALID and the key bytes; with any other length it destroys
the key state and reports CONFIG. -/
def Obligations.LoadKeyCommand : Prop :=
  (∀ (s : State) (r : ConfigRow), r ∈ acceptedRows s.params → ∃ t,
    exec (.loadKey (r.keyWords * wordBytes s.params)) s = .next t ∧
    t = { s with
      rk := t.rk
      cfg := BitVec.ofNat 32 (wordBits s.params + r.keyWords * 2 ^ 8 + r.rounds * 2 ^ 16 + r.zsel * 2 ^ 24)
      keyValid := true
      key := Vector.replicate 8 0
      busy := false
      done := true } ∧
    t.rk.length = rkDepth s.params ∧
    (∀ i, i < r.keyWords → rkAt t.rk i =
      BitVec.ofNat 64 (leDecode (bytesAt s.key (i * wordBytes s.params) (wordBytes s.params)))) ∧
    (∀ i, r.keyWords ≤ i → i < r.rounds →
      KeyRecurrence (wordBits s.params) r.keyWords r.zsel t.rk i) ∧
    (∀ i, r.rounds ≤ i → rkAt t.rk i = 0)) ∧
  (∀ (s : State) (len : Nat), (∀ r ∈ acceptedRows s.params, len ≠ r.keyWords * wordBytes s.params) →
    exec (.loadKey len) s = .next (commandErrorState .config
      { s with
        keyValid := false
        cfg := 0
        rk := List.replicate (rkDepth s.params) 0
        key := Vector.replicate 8 0 }))

/-- R163: RK_READ. -/
def Obligations.RkReadCommand : Prop :=
  ∀ (s : State) (i : Nat),
    (s.keyValid = false → exec (.rkRead i) s = .next (commandErrorState .noKey s)) ∧
    (s.keyValid = true → cfgRounds s ≤ i →
      exec (.rkRead i) s = .next (commandErrorState .badOperand s)) ∧
    (s.keyValid = true → i < cfgRounds s →
      exec (.rkRead i) s = .next { s with res0 := rkAt s.rk i, busy := false, done := true })

/-- R184: ROUND_ENC. -/
def Obligations.RoundEncCommand : Prop :=
  ∀ (s : State) (i : Nat),
    (s.keyValid = false → exec (.roundEnc i) s = .next (commandErrorState .noKey s)) ∧
    (s.keyValid = true →
      (cfgRounds s ≤ i ∨ 2 ^ bitsOf s ≤ s.arg0.toNat ∨ 2 ^ bitsOf s ≤ s.arg1.toNat) →
      exec (.roundEnc i) s = .next (commandErrorState .badOperand s)) ∧
    (s.keyValid = true → i < cfgRounds s → s.arg0.toNat < 2 ^ bitsOf s → s.arg1.toNat < 2 ^ bitsOf s →
      exec (.roundEnc i) s = .next
        { s with
          res0 := s.arg1 ^^^ ((rotl (bitsOf s) s.arg0 1 &&& rotl (bitsOf s) s.arg0 8)
            ^^^ rotl (bitsOf s) s.arg0 2) ^^^ rkAt s.rk i
          res1 := s.arg0
          busy := false
          done := true })

/-- R185: ROUND_DEC. -/
def Obligations.RoundDecCommand : Prop :=
  ∀ (s : State) (i : Nat),
    (s.keyValid = false → exec (.roundDec i) s = .next (commandErrorState .noKey s)) ∧
    (s.keyValid = true →
      (cfgRounds s ≤ i ∨ 2 ^ bitsOf s ≤ s.arg0.toNat ∨ 2 ^ bitsOf s ≤ s.arg1.toNat) →
      exec (.roundDec i) s = .next (commandErrorState .badOperand s)) ∧
    (s.keyValid = true → i < cfgRounds s → s.arg0.toNat < 2 ^ bitsOf s → s.arg1.toNat < 2 ^ bitsOf s →
      exec (.roundDec i) s = .next
        { s with
          res0 := s.arg1
          res1 := s.arg0 ^^^ ((rotl (bitsOf s) s.arg1 1 &&& rotl (bitsOf s) s.arg1 8)
            ^^^ rotl (bitsOf s) s.arg1 2) ^^^ rkAt s.rk i
          busy := false
          done := true })

/-- R180, R186, and R181 for `f_n`: SCRAMBLE; `f_n` gives Words, and its corner cases, for every word size. -/
def Obligations.ScrambleCommand : Prop :=
  (∀ s : State,
    (2 ^ bitsOf s ≤ s.arg0.toNat → exec .scramble s = .next (commandErrorState .badOperand s)) ∧
    (s.arg0.toNat < 2 ^ bitsOf s → exec .scramble s = .next
      { s with
        res0 := (rotl (bitsOf s) s.arg0 1 &&& rotl (bitsOf s) s.arg0 8) ^^^ rotl (bitsOf s) s.arg0 2
        busy := false
        done := true })) ∧
  (∀ p : Params,
    (∀ x : Word, isWord (wordBits p) x = true → isWord (wordBits p) (scramble (wordBits p) x) = true) ∧
    scramble (wordBits p) 0 = 0 ∧
    scramble (wordBits p) (BitVec.ofNat 64 (2 ^ wordBits p - 1)) = 0 ∧
    scramble (wordBits p) 1 = 4 ∧
    scramble (wordBits p) (BitVec.ofNat 64 (2 ^ (wordBits p - 1))) = 2)

/-- R144, R145: ROTL and ROTR, the result given bit by bit within the n-bit field. -/
def Obligations.RotateCommands : Prop :=
  ∀ (s : State) (a : Nat),
    ((bitsOf s ≤ a ∨ 2 ^ bitsOf s ≤ s.arg0.toNat) →
      exec (.rotl a) s = .next (commandErrorState .badOperand s) ∧
      exec (.rotr a) s = .next (commandErrorState .badOperand s)) ∧
    (a < bitsOf s → s.arg0.toNat < 2 ^ bitsOf s → ∃ v w : Word,
      exec (.rotl a) s = .next { s with res0 := v, busy := false, done := true } ∧
      exec (.rotr a) s = .next { s with res0 := w, busy := false, done := true } ∧
      v.toNat < 2 ^ bitsOf s ∧ w.toNat < 2 ^ bitsOf s ∧
      ∀ p, p < bitsOf s → v.getLsbD ((p + a) % bitsOf s) = s.arg0.getLsbD p ∧
        w.getLsbD ((p + bitsOf s - a) % bitsOf s) = s.arg0.getLsbD p)

/-- R124: ZBIT. -/
def Obligations.ZbitCommand : Prop :=
  ∀ (s : State) (i kw : Nat),
    (kw ∉ kwSet s.params → exec (.zbit i kw) s = .next (commandErrorState .config s)) ∧
    (∀ T j, ctLookup s.params kw = some (T, j) → exec (.zbit i kw) s = .next
      { s with
        res0 := if ctBit j (i % 62) then 1 else 0
        res1 := BitVec.ofNat 64 j
        busy := false
        done := true }) ∧
    (kw ∈ kwSet s.params → ∃ T j, ctLookup s.params kw = some (T, j))

/-- R64, R183, R200: ENCRYPT. -/
def Obligations.EncryptCommand : Prop :=
  ∀ (s : State) (len : Nat) (wb : Bool),
    (s.keyValid = false → exec (.encrypt len wb) s = .next (commandErrorState .noKey s)) ∧
    (s.keyValid = true → len ≠ blockBytes s.params →
      exec (.encrypt len wb) s = .next (commandErrorState .blockSize s)) ∧
    (s.keyValid = true → len = blockBytes s.params → ∃ (t : State) (b : Nat → Block),
      exec (.encrypt len wb) s = .next t ∧
      b 0 = ⟨BitVec.ofNat 64 (leDecode (bytesAt s.din 0 (wordBytes s.params))),
        BitVec.ofNat 64 (leDecode (bytesAt s.din (wordBytes s.params) (wordBytes s.params)))⟩ ∧
      EncTrace (bitsOf s) s.rk (cfgRounds s) b ∧
      WritesBlock (leEncode (wordBytes s.params) (b (cfgRounds s)).x
        ++ leEncode (wordBytes s.params) (b (cfgRounds s)).y) wb s t)

/-- R64, R183, R201: DECRYPT. -/
def Obligations.DecryptCommand : Prop :=
  ∀ (s : State) (len : Nat) (wb : Bool),
    (s.keyValid = false → exec (.decrypt len wb) s = .next (commandErrorState .noKey s)) ∧
    (s.keyValid = true → len ≠ blockBytes s.params →
      exec (.decrypt len wb) s = .next (commandErrorState .blockSize s)) ∧
    (s.keyValid = true → len = blockBytes s.params → ∃ (t : State) (b : Nat → Block),
      exec (.decrypt len wb) s = .next t ∧
      b (cfgRounds s) = ⟨BitVec.ofNat 64 (leDecode (bytesAt s.din 0 (wordBytes s.params))),
        BitVec.ofNat 64 (leDecode (bytesAt s.din (wordBytes s.params) (wordBytes s.params)))⟩ ∧
      DecTrace (bitsOf s) s.rk (cfgRounds s) b ∧
      WritesBlock (leEncode (wordBytes s.params) (b 0).x
        ++ leEncode (wordBytes s.params) (b 0).y) wb s t)

/-! ## Whole-machine rules -/

/-- R203: ENCRYPT with write-back and then DECRYPT with write-back gives back every byte of DIN, and
leaves the block in DOUT. -/
def Obligations.DecryptUndoesEncrypt : Prop :=
  ∀ (s : State) (len : Nat), CoreInv s → s.keyValid = true → len = blockBytes s.params → ∃ t u,
    exec (.encrypt len true) s = .next t ∧ exec (.decrypt len true) t = .next u ∧
    u.din = s.din ∧ ∀ j, j < blockBytes s.params → byteAt u.dout j = byteAt s.din j

/-- R78: with write-back, DIN holds the same block as DOUT, and DOUT is what it is without. -/
def Obligations.InPlaceIsSafe : Prop :=
  ∀ (s t u : State) (len : Nat), s.keyValid = true → len = blockBytes s.params →
    ((exec (.encrypt len true) s = .next t ∧ exec (.encrypt len false) s = .next u) ∨
      (exec (.decrypt len true) s = .next t ∧ exec (.decrypt len false) s = .next u)) →
    t.dout = u.dout ∧ ∀ j, j < blockBytes s.params → byteAt t.din j = byteAt u.dout j

/-- R184: ROUND_ENC of the block after i rounds gives the block after i + 1 rounds, so T of them chain
to Simon_enc; ROUND_DEC goes the other way. -/
def Obligations.RoundCommandsChain : Prop :=
  ∀ (s : State) (b : Block) (i : Nat), CoreInv s → s.keyValid = true → i < cfgRounds s →
    isWord (bitsOf s) b.x = true → isWord (bitsOf s) b.y = true →
    (∃ t, exec (.roundEnc i) { s with
        arg0 := (simonEnc (bitsOf s) s.rk i b).x, arg1 := (simonEnc (bitsOf s) s.rk i b).y } = .next t ∧
      t.res0 = (simonEnc (bitsOf s) s.rk (i + 1) b).x ∧ t.res1 = (simonEnc (bitsOf s) s.rk (i + 1) b).y) ∧
    (∃ t, exec (.roundDec i) { s with
        arg0 := (simonEnc (bitsOf s) s.rk (i + 1) b).x
        arg1 := (simonEnc (bitsOf s) s.rk (i + 1) b).y } = .next t ∧
      t.res0 = (simonEnc (bitsOf s) s.rk i b).x ∧ t.res1 = (simonEnc (bitsOf s) s.rk i b).y)

/-- R168: two loads of one key, from any two states of one build, give the same RK and CFG. -/
def Obligations.KeyLoadIsDeterministic : Prop :=
  ∀ (s s' t t' : State) (len : Nat), s.params = s'.params →
    (∀ j, j < len → byteAt s.key j = byteAt s'.key j) →
    exec (.loadKey len) s = .next t → exec (.loadKey len) s' = .next t' →
    t.rk = t'.rk ∧ t.cfg = t'.cfg ∧ t.keyValid = t'.keyValid ∧ t.key = t'.key

/-- R38: DIN bytes at BLOCK_BYTES and above do not reach the result of ENCRYPT or DECRYPT. -/
def Obligations.BytesAboveBlockIgnored : Prop :=
  ∀ (s : State) (d : Vector Reg32 4) (len : Nat) (wb : Bool),
    (∀ j, j < blockBytes s.params → byteAt d j = byteAt s.din j) →
    (∀ t t', exec (.encrypt len wb) s = .next t → exec (.encrypt len wb) { s with din := d } = .next t' →
      t' = { t with din := t'.din }) ∧
    (∀ t t', exec (.decrypt len wb) s = .next t → exec (.decrypt len wb) { s with din := d } = .next t' →
      t' = { t with din := t'.din })

/-- R37: the raw key bytes reach the rest of the state only through LOAD_KEY: in every step but one that
completes a LOAD_KEY, a different key changes nothing but the key registers. -/
def Obligations.KeyBytesFlowOnlyThroughLoadKey : Prop :=
  ∀ (s t : State) (k : Vector Reg32 8),
    ¬ (s.busy = true ∧ (nextCycle s).rstN = true ∧ (nextCycle s).engine = true ∧
      ∃ len, decode s.pending = .ok (.loadKey len)) →
    step s = .next t → ∃ k', step { s with key := k } = .next { t with key := k' }

/-- R161, R204: a step that changes RK, CFG or KEYVALID is a reset, or completes LOAD_KEY or
CLEAR_KEY. -/
def Obligations.KeyStateChangesOnlyByKeyCommands : Prop :=
  ∀ s t : State, step s = .next t → resetsInCycle (nextCycle s) = false →
    (t.rk ≠ s.rk ∨ t.cfg ≠ s.cfg ∨ t.keyValid ≠ s.keyValid) →
    s.busy = true ∧ (nextCycle s).engine = true ∧
    ((∃ len, decode s.pending = .ok (.loadKey len)) ∨ decode s.pending = .ok .clearKey)

/-- R49: outside a reset, what changes the flags BUSY, DONE, ERR and KEYVALID: a CMD write with BUSY = 0, a
completion, a write of 1 to the STATUS bit, an error report (of a completion, of a write to a read-only
or unmapped offset, or of a write to a locked register while BUSY = 1), and for KEYVALID LOAD_KEY and
CLEAR_KEY. -/
def Obligations.FlagsChangeOnlyAsStated : Prop :=
  ∀ (s t : State) (c : Cycle), step s = .next t → nextCycle s = c → resetsInCycle c = false →
    (s.busy = false → t.busy = true → c.sel = true ∧ c.write = true ∧ c.addr &&& 0xFC = 0x14) ∧
    (s.busy = true → t.busy = false → c.engine = true) ∧
    (s.done = false → t.done = true → s.busy = true ∧ c.engine = true) ∧
    (s.done = true → t.done = false → c.sel = true ∧ c.write = true ∧
      (c.addr &&& 0xFC = 0x14 ∨ (c.addr &&& 0xFC = 0x10 ∧ c.wdata.getLsbD 2 = true))) ∧
    (s.err = true → t.err = false →
      c.sel = true ∧ c.write = true ∧ c.addr &&& 0xFC = 0x10 ∧ c.wdata.getLsbD 3 = true) ∧
    (s.err = false → t.err = true → (s.busy = true ∧ c.engine = true) ∨
      (c.sel = true ∧ c.write = true ∧
        (readOnlyOffset c.addr ∨ (s.busy = true ∧ lockedOffset c.addr)))) ∧
    (s.keyValid = false → t.keyValid = true →
      s.busy = true ∧ c.engine = true ∧ ∃ len, decode s.pending = .ok (.loadKey len)) ∧
    (s.keyValid = true → t.keyValid = false → s.busy = true ∧ c.engine = true ∧
      ((∃ len, decode s.pending = .ok (.loadKey len)) ∨ decode s.pending = .ok .clearKey))

/-- R39, R40, R41: which command may change which register. -/
def Obligations.CommandFrame : Prop :=
  ∀ (i : Instr) (s t : State), exec i s = .next t →
    t.arg0 = s.arg0 ∧ t.arg1 = s.arg1 ∧ t.doneIE = s.doneIE ∧ t.errIE = s.errIE ∧
    t.params = s.params ∧ t.script = s.script ∧ t.rdata = s.rdata ∧ t.draws = s.draws ∧
    t.pending = s.pending ∧ t.busy = false ∧ t.done = true ∧
    (t.dout ≠ s.dout → ∃ len wb, i = .encrypt len wb ∨ i = .decrypt len wb) ∧
    (t.din ≠ s.din → ∃ len, i = .encrypt len true ∨ i = .decrypt len true) ∧
    (t.res0 ≠ s.res0 → i = .scramble ∨ ∃ k kw, i = .rkRead k ∨ i = .roundEnc k ∨ i = .roundDec k ∨
      i = .rotl k ∨ i = .rotr k ∨ i = .zbit k kw) ∧
    (t.res1 ≠ s.res1 → ∃ k kw, i = .roundEnc k ∨ i = .roundDec k ∨ i = .zbit k kw) ∧
    ((t.rk ≠ s.rk ∨ t.cfg ≠ s.cfg ∨ t.keyValid ≠ s.keyValid ∨ t.key ≠ s.key) →
      i = .clearKey ∨ ∃ len, i = .loadKey len) ∧
    ((s.err = true ∨ t.err = false) →
      t.err = s.err ∧ t.errCode = s.errCode ∧ t.errInfo = s.errInfo)

/-- R105, R220: a command that fails leaves the error record, BUSY = 0 and DONE = 1, and nothing else but
the key state that LOAD_KEY destroys before it raises; the code is one that the command can raise. -/
def Obligations.FailingCommandFrame : Prop :=
  ∀ (i : Instr) (s t : State), exec i s = .next t → s.err = false → t.err = true →
    t.errInfo = s.pending ∧
    match i with
    | .nop | .clearKey => False
    | .loadKey _ => t = commandErrorState .config
        { s with
          keyValid := false
          cfg := 0
          rk := List.replicate (rkDepth s.params) 0
          key := Vector.replicate 8 0 }
    | .encrypt _ _ | .decrypt _ _ =>
      t = commandErrorState t.errCode s ∧ (t.errCode = .noKey ∨ t.errCode = .blockSize)
    | .rkRead _ | .roundEnc _ | .roundDec _ =>
      t = commandErrorState t.errCode s ∧ (t.errCode = .noKey ∨ t.errCode = .badOperand)
    | .rotl _ | .rotr _ | .scramble => t = commandErrorState .badOperand s
    | .zbit _ _ => t = commandErrorState .config s
end

