-- ==== Sys2Proof/Laws/Codec.lean ====
section
/-! SUPPORT. The small laws of the Word Codec and the round functions: bits of masked words, what keeps
a value a Word, and the byte view of registers. -/

namespace Sys2Proof.Machine

/-! ### Words -/

theorem isWord_iff {n : Nat} {v : Word} : isWord n v = true ↔ v.toNat < 2 ^ n := by
  simp [isWord]

theorem isWord_iff_bits {n : Nat} {v : Word} :
    isWord n v = true ↔ ∀ i, n ≤ i → v.getLsbD i = false := by
  rw [isWord_iff]
  constructor
  · intro h i hi
    exact Nat.testBit_lt_two_pow (Nat.lt_of_lt_of_le h (Nat.pow_le_pow_right (by omega) hi))
  · intro h
    exact Nat.lt_pow_two_of_testBit _ h

theorem maskN_getLsbD {n : Nat} (hn : n ≤ 64) (v : Word) (i : Nat) :
    (maskN n v).getLsbD i = (v.getLsbD i && decide (i < n)) := by
  simp only [maskN, BitVec.getLsbD_and, BitVec.getLsbD_ofNat, Nat.testBit_two_pow_sub_one]
  by_cases h : i < n
  · simp [h, Nat.lt_of_lt_of_le h hn]
  · simp [h]

theorem isWord_maskN {n : Nat} (hn : n ≤ 64) (v : Word) : isWord n (maskN n v) = true := by
  rw [isWord_iff_bits]
  intro i hi
  simp [maskN_getLsbD hn, Nat.not_lt.mpr hi]

@[simp] theorem isWord_zero (n : Nat) : isWord n 0 = true := by
  simp [isWord_iff]

theorem isWord_xor {n : Nat} {a b : Word} (ha : isWord n a = true) (hb : isWord n b = true) :
    isWord n (a ^^^ b) = true := by
  rw [isWord_iff_bits] at *
  intro i hi
  simp [ha i hi, hb i hi]

theorem isWord_and {n : Nat} {a b : Word} (ha : isWord n a = true) :
    isWord n (a &&& b) = true := by
  rw [isWord_iff_bits] at *
  intro i hi
  simp [ha i hi]

theorem wordBits_le (p : Params) : wordBits p ≤ 64 := by cases p <;> decide

theorem wordBits_pos (p : Params) : 0 < wordBits p := by cases p <;> decide

theorem wordBits_eq (p : Params) : wordBits p = 8 * wordBytes p := by cases p <;> decide

theorem blockBytes_le (p : Params) : blockBytes p ≤ 16 := by cases p <;> decide

/-! ### Rotations and rounds -/

theorem rotl_isWord {n s : Nat} {w : Word} (hn : n ≤ 64) (hw : isWord n w = true) :
    isWord n (rotl n w s) = true := by
  unfold rotl
  split
  · exact hw
  · exact isWord_maskN hn _

theorem rotr_isWord {n s : Nat} {w : Word} (hn : n ≤ 64) (hw : isWord n w = true) :
    isWord n (rotr n w s) = true := rotl_isWord hn hw

/-- Every bit of a rotation within the field (R142). -/
theorem rotl_getLsbD {n s : Nat} {w : Word} (hn : n ≤ 64) (hs : s < n) (hw : isWord n w = true)
    {i : Nat} (hi : i < n) :
    (rotl n w s).getLsbD i = if s ≤ i then w.getLsbD (i - s) else w.getLsbD (i + n - s) := by
  unfold rotl
  split
  · next h => subst h; simp
  · rw [maskN_getLsbD hn]
    simp only [BitVec.getLsbD_or, BitVec.getLsbD_shiftLeft, BitVec.getLsbD_ushiftRight, hi,
      decide_true, Bool.and_true]
    have h64 : i < 64 := by omega
    split
    · next h =>
      have h0 : w.getLsbD (n - s + i) = false := isWord_iff_bits.mp hw _ (by omega)
      simp [h64, h0, Nat.not_lt.mpr h]
    · next h =>
      simp [h64, Nat.lt_of_not_le h, show n - s + i = i + n - s by omega]

/-- Two Words with the same bits below n are the same. -/
theorem word_ext {n : Nat} {a b : Word} (ha : isWord n a = true) (hb : isWord n b = true)
    (h : ∀ i, i < n → a.getLsbD i = b.getLsbD i) : a = b := by
  apply BitVec.eq_of_getLsbD_eq
  intro i hi
  by_cases h' : i < n
  · exact h i h'
  · rw [isWord_iff_bits.mp ha _ (by omega), isWord_iff_bits.mp hb _ (by omega)]

/-- `f_n` masks its result whatever its argument is, since its three rotations do (R181). -/
theorem scramble_isWord {n : Nat} (hn : n ≤ 64) (x : Word) : isWord n (scramble n x) = true := by
  have h : ∀ s, s ≠ 0 → isWord n (rotl n x s) = true := fun s hs => by
    simp only [rotl, hs, if_false]
    exact isWord_maskN hn _
  exact isWord_xor (isWord_and (h 1 (by decide))) (h 2 (by decide))

/-- A pair of Words. -/
abbrev Block.isWords (n : Nat) (b : Block) : Prop := isWord n b.x = true ∧ isWord n b.y = true

theorem rkAt_isWord {n : Nat} {k : List Word} (hk : k.all (isWord n) = true) (i : Nat) :
    isWord n (rkAt k i) = true := by
  simp only [List.all_eq_true] at hk
  by_cases h : i < k.length
  · simp only [rkAt, List.getD_eq_getElem?_getD, List.getElem?_eq_getElem h, Option.getD_some]
    exact hk _ (List.getElem_mem h)
  · rw [rkAt, List.getD_eq_getElem?_getD, List.getElem?_eq_none (Nat.le_of_not_lt h)]
    exact isWord_zero n

theorem rnd_isWords {n : Nat} {k : Word} {b : Block} (hn : n ≤ 64) (hk : isWord n k = true)
    (hb : b.isWords n) : (rnd n k b).isWords n :=
  ⟨isWord_xor (isWord_xor hb.2 (scramble_isWord hn _)) hk, hb.1⟩

theorem rndInv_isWords {n : Nat} {k : Word} {b : Block} (hn : n ≤ 64) (hk : isWord n k = true)
    (hb : b.isWords n) : (rndInv n k b).isWords n :=
  ⟨hb.2, isWord_xor (isWord_xor hb.1 (scramble_isWord hn _)) hk⟩

theorem simonEnc_isWords {n : Nat} {k : List Word} (hn : n ≤ 64) (hk : k.all (isWord n) = true) :
    ∀ (T : Nat) {b : Block}, b.isWords n → (simonEnc n k T b).isWords n
  | 0, _, hb => hb
  | T + 1, _, hb => rnd_isWords hn (rkAt_isWord hk T) (simonEnc_isWords hn hk T hb)

theorem simonDec_isWords {n : Nat} {k : List Word} (hn : n ≤ 64) (hk : k.all (isWord n) = true) :
    ∀ (T : Nat) {b : Block}, b.isWords n → (simonDec n k T b).isWords n
  | 0, _, hb => hb
  | T + 1, _, hb => simonDec_isWords hn hk T (rndInv_isWords hn (rkAt_isWord hk T) hb)

/-! ### Bytes -/

theorem regOfBytes_extract (b0 b1 b2 b3 : Byte) {i : Nat} (hi : i < 4) :
    (regOfBytes b0 b1 b2 b3).extractLsb' (8 * i) 8 = [b0, b1, b2, b3].getD i 0 := by
  ext j hj
  have h4 : i = 0 ∨ i = 1 ∨ i = 2 ∨ i = 3 := by omega
  simp only [BitVec.getElem_extractLsb', regOfBytes, BitVec.getLsbD_append]
  rcases h4 with rfl | rfl | rfl | rfl
  · simp [hj]
  · rw [if_neg (by omega), if_pos (by omega)]
    simp [BitVec.getLsbD_eq_getElem hj]
  · rw [if_neg (by omega), if_neg (by omega), if_pos (by omega)]
    simp [show 8 * 2 + j - 8 - 8 = j by omega, BitVec.getLsbD_eq_getElem hj]
  · rw [if_neg (by omega), if_neg (by omega), if_neg (by omega)]
    simp [show 8 * 3 + j - 8 - 8 - 8 = j by omega, BitVec.getLsbD_eq_getElem hj]

/-- Writing a byte array: byte j is what the function says (R63). -/
theorem byteAt_mapBytes {k : Nat} (r : Vector Reg32 k) (f : Nat → Byte → Byte) {j : Nat}
    (hj : j < 4 * k) : byteAt (mapBytes r f) j = f j (byteAt r j) := by
  have hq : j / 4 < k := by omega
  have hm : j % 4 < 4 := Nat.mod_lt _ (by decide)
  have hsplit : 4 * (j / 4) + j % 4 = j := Nat.div_add_mod j 4
  rw [byteAt, mapBytes, Vector.getElem?_eq_getElem hq, Option.getD_some, Vector.getElem_mapIdx,
    regOfBytes_extract _ _ _ _ hm]
  have h4 : j % 4 = 0 ∨ j % 4 = 1 ∨ j % 4 = 2 ∨ j % 4 = 3 := by omega
  rcases h4 with h | h | h | h <;> rw [h] at hsplit ⊢ <;>
    exact congrArg (fun t => f t (byteAt r t)) hsplit

/-- Two byte arrays with the same bytes are the same registers (R63). -/
theorem eq_of_byteAt {k : Nat} {a b : Vector Reg32 k}
    (h : ∀ j, j < 4 * k → byteAt a j = byteAt b j) : a = b := by
  ext i hi p hp
  have hb := congrArg (fun v => v.getLsbD (p % 8)) (h (4 * i + p / 8) (by omega))
  have h1 : (4 * i + p / 8) / 4 = i := by omega
  have h2 : (4 * i + p / 8) % 4 = p / 8 := by omega
  have h3 : 8 * (p / 8) + p % 8 = p := by omega
  simpa [byteAt, h1, h2, h3, hi, hp, Nat.mod_lt, BitVec.getLsbD_eq_getElem] using hb

/-- The byte view after one register is written (R63). -/
theorem byteAt_set {k : Nat} (r : Vector Reg32 k) (i : Fin k) (v : Reg32) (j : Nat) :
    byteAt (r.set i v) j = if j / 4 = i then v.extractLsb' (8 * (j % 4)) 8 else byteAt r j := by
  simp only [byteAt, Vector.getElem?_set]
  split
  · next h => simp [h]
  · next h => rw [if_neg (fun h' => h h'.symm)]

@[simp] theorem byteAt_replicate_zero (k j : Nat) :
    byteAt (Vector.replicate k (0 : Reg32)) j = 0 := by
  simp only [byteAt, Vector.getElem?_replicate]
  split <;> simp

@[simp] theorem length_bytesAt {k : Nat} (r : Vector Reg32 k) (lo len : Nat) :
    (bytesAt r lo len).length = len := by simp [bytesAt]

theorem bytesAt_congr {k : Nat} {a b : Vector Reg32 k} {lo len : Nat}
    (h : ∀ j, lo ≤ j → j < lo + len → byteAt a j = byteAt b j) :
    bytesAt a lo len = bytesAt b lo len :=
  List.map_congr_left fun t ht => h _ (Nat.le_add_right _ _) (by
    have := List.mem_range.mp ht
    omega)

@[simp] theorem length_leEncode (k : Nat) (w : Word) : (leEncode k w).length = k := by
  simp [leEncode]

theorem leDecode_lt : ∀ b : List Byte, leDecode b < 2 ^ (8 * b.length)
  | [] => by simp [leDecode]
  | x :: xs => by
    have h := leDecode_lt xs
    have hx : x.toNat < 256 := x.isLt
    have hp : 2 ^ (8 * (xs.length + 1)) = 256 * 2 ^ (8 * xs.length) := by
      rw [Nat.mul_add, Nat.pow_add, Nat.mul_comm]
    rw [leDecode, List.length_cons, hp]
    omega

/-- A word decoded from WORD_BYTES bytes is a Word (R200). -/
theorem wordAt_isWord {k : Nat} (p : Params) (r : Vector Reg32 k) (lo : Nat) :
    isWord (wordBits p) (wordAt p r lo) = true := by
  rw [isWord_iff, wordAt, BitVec.toNat_ofNat]
  have h := leDecode_lt (bytesAt r lo (wordBytes p))
  rw [length_bytesAt, ← wordBits_eq] at h
  exact Nat.lt_of_le_of_lt (Nat.mod_le _ _) h

theorem dinBlock_isWords (s : State) : (dinBlock s).isWords (bitsOf s) :=
  ⟨wordAt_isWord _ _ _, wordAt_isWord _ _ _⟩

@[simp] theorem length_blockOut (p : Params) (b : Block) : (blockOut p b).length = blockBytes p := by
  simp [blockOut, blockBytes, Nat.two_mul]

/-! ### The key schedule -/

theorem ksNext_isWord {n : Nat} (hn : n ≤ 64) (m j : Nat) (k : List Word) (i : Nat) :
    isWord n (ksNext n m j k i) = true := isWord_maskN hn _

theorem length_ksExtend (n m j : Nat) : ∀ (steps : Nat) (k : List Word),
    (ksExtend n m j steps k).length = k.length + steps
  | 0, _ => rfl
  | steps + 1, k => by
    rw [ksExtend, length_ksExtend n m j steps]
    simp
    omega

theorem ksExtend_all {n : Nat} (hn : n ≤ 64) (m j : Nat) : ∀ (steps : Nat) (k : List Word),
    k.all (isWord n) = true → (ksExtend n m j steps k).all (isWord n) = true
  | 0, _, h => h
  | steps + 1, k, h => ksExtend_all hn m j steps _ (by
      rw [List.all_append, h]
      simp [ksNext_isWord hn])

theorem ksSplit_all (p : Params) (key : Vector Reg32 8) (m : Nat) :
    (ksSplit p key m).all (isWord (wordBits p)) = true := by
  simp [ksSplit, wordAt_isWord]

@[simp] theorem length_ksSplit (p : Params) (key : Vector Reg32 8) (m : Nat) :
    (ksSplit p key m).length = m := by simp [ksSplit]

theorem ksExpand_all (p : Params) (key : Vector Reg32 8) (m T j : Nat) :
    (ksExpand p key m T j).all (isWord (wordBits p)) = true :=
  ksExtend_all (wordBits_le p) m j _ _ (ksSplit_all p key m)

theorem length_ksExpand (p : Params) (key : Vector Reg32 8) {m T : Nat} (j : Nat) (h : m ≤ T) :
    (ksExpand p key m T j).length = T := by
  rw [ksExpand, length_ksExtend, length_ksSplit]
  omega

/-- Extending a sequence leaves the entries it has (R165). -/
theorem rkAt_ksExtend_old (n m j : Nat) : ∀ (steps : Nat) (k : List Word) (i : Nat),
    i < k.length → rkAt (ksExtend n m j steps k) i = rkAt k i
  | 0, _, _, _ => rfl
  | steps + 1, k, i, h => by
    rw [ksExtend, rkAt_ksExtend_old n m j steps _ _ (by simp; omega)]
    simp [rkAt, List.getD_eq_getElem?_getD, List.getElem?_append_left h]

theorem rkAt_append_left {a b : List Word} {i : Nat} (h : i < a.length) :
    rkAt (a ++ b) i = rkAt a i := by
  simp [rkAt, List.getD_eq_getElem?_getD, List.getElem?_append_left h]

theorem rkAt_append_zero {a : List Word} {n i : Nat} (h : a.length ≤ i) :
    rkAt (a ++ List.replicate n 0) i = 0 := by
  rw [rkAt, List.getD_eq_getElem?_getD, List.getElem?_append_right h, List.getElem?_replicate]
  split <;> rfl

/-- The round key `ksNext` computes depends on the entries below its index (R167). -/
theorem ksNext_congr {n m j i : Nat} {k k' : List Word} (hm : 0 < m) (hi : 0 < i)
    (h : ∀ t, t < i → rkAt k t = rkAt k' t) (hb : m = 4 → 3 ≤ i) :
    ksNext n m j k i = ksNext n m j k' i := by
  have h1 := h (i - 1) (by omega)
  have h2 := h (i - m) (by omega)
  simp only [ksNext, h1, h2]
  split
  · rw [h (i - 3) (by have := hb ‹_›; omega)]
  · rfl

/-- Every entry past the given ones is the next round key of the finished sequence (R165). -/
theorem rkAt_ksExtend_new {n m j : Nat} (hm : 0 < m) : ∀ (steps : Nat) (k : List Word) (i : Nat),
    m ≤ k.length → k.length ≤ i → i < k.length + steps →
    rkAt (ksExtend n m j steps k) i = ksNext n m j (ksExtend n m j steps k) i
  | 0, _, _, _, h1, h2 => absurd h2 (by omega)
  | steps + 1, k, i, h0, h1, h2 => by
    rw [ksExtend]
    rcases Nat.lt_or_eq_of_le h1 with h | h
    · exact rkAt_ksExtend_new hm steps _ i (by simp; omega) (by simp; omega) (by simp; omega)
    · subst h
      rw [rkAt_ksExtend_old _ _ _ _ _ _ (by simp)]
      have hself : rkAt (k ++ [ksNext n m j k k.length]) k.length = ksNext n m j k k.length := by
        simp [rkAt, List.getD_eq_getElem?_getD]
      rw [hself]
      apply ksNext_congr hm (by omega) _ (by omega)
      intro t ht
      rw [rkAt_ksExtend_old _ _ _ _ _ _ (by simp; omega)]
      simp [rkAt, List.getD_eq_getElem?_getD, List.getElem?_append_left ht]

end Sys2Proof.Machine
end

