-- ==== Sys2Proof/Laws/State.lean ====
section
/-! SUPPORT. What each named update of State leaves in each field: one lemma per field per update. -/

namespace Sys2Proof.Machine

/-! ### ReportError (R222) -/

@[simp] theorem reportError_params (e : ErrCode) (info : Reg32) (s : State) :
    (reportError e info s).params = s.params := rfl
@[simp] theorem reportError_doneIE (e : ErrCode) (info : Reg32) (s : State) :
    (reportError e info s).doneIE = s.doneIE := rfl
@[simp] theorem reportError_errIE (e : ErrCode) (info : Reg32) (s : State) :
    (reportError e info s).errIE = s.errIE := rfl
@[simp] theorem reportError_busy (e : ErrCode) (info : Reg32) (s : State) :
    (reportError e info s).busy = s.busy := rfl
@[simp] theorem reportError_keyValid (e : ErrCode) (info : Reg32) (s : State) :
    (reportError e info s).keyValid = s.keyValid := rfl
@[simp] theorem reportError_done (e : ErrCode) (info : Reg32) (s : State) :
    (reportError e info s).done = s.done := rfl
@[simp] theorem reportError_err (e : ErrCode) (info : Reg32) (s : State) :
    (reportError e info s).err = true := rfl
@[simp] theorem reportError_errCode (e : ErrCode) (info : Reg32) (s : State) :
    (reportError e info s).errCode = if s.err then s.errCode else e := rfl
@[simp] theorem reportError_errInfo (e : ErrCode) (info : Reg32) (s : State) :
    (reportError e info s).errInfo = if s.err then s.errInfo else info := rfl
@[simp] theorem reportError_cfg (e : ErrCode) (info : Reg32) (s : State) :
    (reportError e info s).cfg = s.cfg := rfl
@[simp] theorem reportError_key (e : ErrCode) (info : Reg32) (s : State) :
    (reportError e info s).key = s.key := rfl
@[simp] theorem reportError_din (e : ErrCode) (info : Reg32) (s : State) :
    (reportError e info s).din = s.din := rfl
@[simp] theorem reportError_dout (e : ErrCode) (info : Reg32) (s : State) :
    (reportError e info s).dout = s.dout := rfl
@[simp] theorem reportError_arg0 (e : ErrCode) (info : Reg32) (s : State) :
    (reportError e info s).arg0 = s.arg0 := rfl
@[simp] theorem reportError_arg1 (e : ErrCode) (info : Reg32) (s : State) :
    (reportError e info s).arg1 = s.arg1 := rfl
@[simp] theorem reportError_res0 (e : ErrCode) (info : Reg32) (s : State) :
    (reportError e info s).res0 = s.res0 := rfl
@[simp] theorem reportError_res1 (e : ErrCode) (info : Reg32) (s : State) :
    (reportError e info s).res1 = s.res1 := rfl
@[simp] theorem reportError_rk (e : ErrCode) (info : Reg32) (s : State) :
    (reportError e info s).rk = s.rk := rfl
@[simp] theorem reportError_pending (e : ErrCode) (info : Reg32) (s : State) :
    (reportError e info s).pending = s.pending := rfl
@[simp] theorem reportError_script (e : ErrCode) (info : Reg32) (s : State) :
    (reportError e info s).script = s.script := rfl
@[simp] theorem reportError_rdata (e : ErrCode) (info : Reg32) (s : State) :
    (reportError e info s).rdata = s.rdata := rfl
@[simp] theorem reportError_draws (e : ErrCode) (info : Reg32) (s : State) :
    (reportError e info s).draws = s.draws := rfl

/-! ### A STATUS write (R34) -/

@[simp] theorem writeStatus_params (v : Reg32) (s : State) : (writeStatus v s).params = s.params := rfl
@[simp] theorem writeStatus_doneIE (v : Reg32) (s : State) : (writeStatus v s).doneIE = s.doneIE := rfl
@[simp] theorem writeStatus_errIE (v : Reg32) (s : State) : (writeStatus v s).errIE = s.errIE := rfl
@[simp] theorem writeStatus_busy (v : Reg32) (s : State) : (writeStatus v s).busy = s.busy := rfl
@[simp] theorem writeStatus_keyValid (v : Reg32) (s : State) :
    (writeStatus v s).keyValid = s.keyValid := rfl
@[simp] theorem writeStatus_done (v : Reg32) (s : State) :
    (writeStatus v s).done = (s.done && !v.getLsbD 2) := rfl
@[simp] theorem writeStatus_err (v : Reg32) (s : State) :
    (writeStatus v s).err = (s.err && !v.getLsbD 3) := rfl
@[simp] theorem writeStatus_errCode (v : Reg32) (s : State) :
    (writeStatus v s).errCode = if v.getLsbD 3 then .none else s.errCode := rfl
@[simp] theorem writeStatus_errInfo (v : Reg32) (s : State) :
    (writeStatus v s).errInfo = if v.getLsbD 3 then 0 else s.errInfo := rfl
@[simp] theorem writeStatus_cfg (v : Reg32) (s : State) : (writeStatus v s).cfg = s.cfg := rfl
@[simp] theorem writeStatus_key (v : Reg32) (s : State) : (writeStatus v s).key = s.key := rfl
@[simp] theorem writeStatus_din (v : Reg32) (s : State) : (writeStatus v s).din = s.din := rfl
@[simp] theorem writeStatus_dout (v : Reg32) (s : State) : (writeStatus v s).dout = s.dout := rfl
@[simp] theorem writeStatus_arg0 (v : Reg32) (s : State) : (writeStatus v s).arg0 = s.arg0 := rfl
@[simp] theorem writeStatus_arg1 (v : Reg32) (s : State) : (writeStatus v s).arg1 = s.arg1 := rfl
@[simp] theorem writeStatus_res0 (v : Reg32) (s : State) : (writeStatus v s).res0 = s.res0 := rfl
@[simp] theorem writeStatus_res1 (v : Reg32) (s : State) : (writeStatus v s).res1 = s.res1 := rfl
@[simp] theorem writeStatus_rk (v : Reg32) (s : State) : (writeStatus v s).rk = s.rk := rfl
@[simp] theorem writeStatus_pending (v : Reg32) (s : State) :
    (writeStatus v s).pending = s.pending := rfl
@[simp] theorem writeStatus_script (v : Reg32) (s : State) : (writeStatus v s).script = s.script := rfl
@[simp] theorem writeStatus_rdata (v : Reg32) (s : State) : (writeStatus v s).rdata = s.rdata := rfl
@[simp] theorem writeStatus_draws (v : Reg32) (s : State) : (writeStatus v s).draws = s.draws := rfl

/-! ### Issue (R100) -/

@[simp] theorem issue_params (v : Reg32) (s : State) : (issue v s).params = s.params := rfl
@[simp] theorem issue_doneIE (v : Reg32) (s : State) : (issue v s).doneIE = s.doneIE := rfl
@[simp] theorem issue_errIE (v : Reg32) (s : State) : (issue v s).errIE = s.errIE := rfl
@[simp] theorem issue_busy (v : Reg32) (s : State) : (issue v s).busy = true := rfl
@[simp] theorem issue_keyValid (v : Reg32) (s : State) : (issue v s).keyValid = s.keyValid := rfl
@[simp] theorem issue_done (v : Reg32) (s : State) : (issue v s).done = false := rfl
@[simp] theorem issue_err (v : Reg32) (s : State) : (issue v s).err = s.err := rfl
@[simp] theorem issue_errCode (v : Reg32) (s : State) : (issue v s).errCode = s.errCode := rfl
@[simp] theorem issue_errInfo (v : Reg32) (s : State) : (issue v s).errInfo = s.errInfo := rfl
@[simp] theorem issue_cfg (v : Reg32) (s : State) : (issue v s).cfg = s.cfg := rfl
@[simp] theorem issue_key (v : Reg32) (s : State) : (issue v s).key = s.key := rfl
@[simp] theorem issue_din (v : Reg32) (s : State) : (issue v s).din = s.din := rfl
@[simp] theorem issue_dout (v : Reg32) (s : State) : (issue v s).dout = s.dout := rfl
@[simp] theorem issue_arg0 (v : Reg32) (s : State) : (issue v s).arg0 = s.arg0 := rfl
@[simp] theorem issue_arg1 (v : Reg32) (s : State) : (issue v s).arg1 = s.arg1 := rfl
@[simp] theorem issue_res0 (v : Reg32) (s : State) : (issue v s).res0 = s.res0 := rfl
@[simp] theorem issue_res1 (v : Reg32) (s : State) : (issue v s).res1 = s.res1 := rfl
@[simp] theorem issue_rk (v : Reg32) (s : State) : (issue v s).rk = s.rk := rfl
@[simp] theorem issue_pending (v : Reg32) (s : State) : (issue v s).pending = v := rfl
@[simp] theorem issue_script (v : Reg32) (s : State) : (issue v s).script = s.script := rfl
@[simp] theorem issue_rdata (v : Reg32) (s : State) : (issue v s).rdata = s.rdata := rfl
@[simp] theorem issue_draws (v : Reg32) (s : State) : (issue v s).draws = s.draws := rfl

/-! ### BUSY and DONE at completion (R104) -/

@[simp] theorem finish_params (s : State) : (finish s).params = s.params := rfl
@[simp] theorem finish_doneIE (s : State) : (finish s).doneIE = s.doneIE := rfl
@[simp] theorem finish_errIE (s : State) : (finish s).errIE = s.errIE := rfl
@[simp] theorem finish_busy (s : State) : (finish s).busy = false := rfl
@[simp] theorem finish_keyValid (s : State) : (finish s).keyValid = s.keyValid := rfl
@[simp] theorem finish_done (s : State) : (finish s).done = true := rfl
@[simp] theorem finish_err (s : State) : (finish s).err = s.err := rfl
@[simp] theorem finish_errCode (s : State) : (finish s).errCode = s.errCode := rfl
@[simp] theorem finish_errInfo (s : State) : (finish s).errInfo = s.errInfo := rfl
@[simp] theorem finish_cfg (s : State) : (finish s).cfg = s.cfg := rfl
@[simp] theorem finish_key (s : State) : (finish s).key = s.key := rfl
@[simp] theorem finish_din (s : State) : (finish s).din = s.din := rfl
@[simp] theorem finish_dout (s : State) : (finish s).dout = s.dout := rfl
@[simp] theorem finish_arg0 (s : State) : (finish s).arg0 = s.arg0 := rfl
@[simp] theorem finish_arg1 (s : State) : (finish s).arg1 = s.arg1 := rfl
@[simp] theorem finish_res0 (s : State) : (finish s).res0 = s.res0 := rfl
@[simp] theorem finish_res1 (s : State) : (finish s).res1 = s.res1 := rfl
@[simp] theorem finish_rk (s : State) : (finish s).rk = s.rk := rfl
@[simp] theorem finish_pending (s : State) : (finish s).pending = s.pending := rfl
@[simp] theorem finish_script (s : State) : (finish s).script = s.script := rfl
@[simp] theorem finish_rdata (s : State) : (finish s).rdata = s.rdata := rfl
@[simp] theorem finish_draws (s : State) : (finish s).draws = s.draws := rfl

/-! ### The reset state (R260) -/

@[simp] theorem resetCore_params (s : State) : (resetCore s).params = s.params := rfl
@[simp] theorem resetCore_doneIE (s : State) : (resetCore s).doneIE = false := rfl
@[simp] theorem resetCore_errIE (s : State) : (resetCore s).errIE = false := rfl
@[simp] theorem resetCore_busy (s : State) : (resetCore s).busy = false := rfl
@[simp] theorem resetCore_keyValid (s : State) : (resetCore s).keyValid = false := rfl
@[simp] theorem resetCore_done (s : State) : (resetCore s).done = false := rfl
@[simp] theorem resetCore_err (s : State) : (resetCore s).err = false := rfl
@[simp] theorem resetCore_errCode (s : State) : (resetCore s).errCode = .none := rfl
@[simp] theorem resetCore_errInfo (s : State) : (resetCore s).errInfo = 0 := rfl
@[simp] theorem resetCore_cfg (s : State) : (resetCore s).cfg = 0 := rfl
@[simp] theorem resetCore_key (s : State) : (resetCore s).key = Vector.replicate 8 0 := rfl
@[simp] theorem resetCore_din (s : State) : (resetCore s).din = Vector.replicate 4 0 := rfl
@[simp] theorem resetCore_dout (s : State) : (resetCore s).dout = Vector.replicate 4 0 := rfl
@[simp] theorem resetCore_arg0 (s : State) : (resetCore s).arg0 = 0 := rfl
@[simp] theorem resetCore_arg1 (s : State) : (resetCore s).arg1 = 0 := rfl
@[simp] theorem resetCore_res0 (s : State) : (resetCore s).res0 = 0 := rfl
@[simp] theorem resetCore_res1 (s : State) : (resetCore s).res1 = 0 := rfl
@[simp] theorem resetCore_rk (s : State) : (resetCore s).rk = List.replicate (rkDepth s.params) 0 := rfl
@[simp] theorem resetCore_pending (s : State) : (resetCore s).pending = 0 := rfl
@[simp] theorem resetCore_script (s : State) : (resetCore s).script = s.script := rfl
@[simp] theorem resetCore_rdata (s : State) : (resetCore s).rdata = s.rdata := rfl
@[simp] theorem resetCore_draws (s : State) : (resetCore s).draws = s.draws := rfl

/-! ### RES0 (R41) -/

@[simp] theorem setRes0_params (v : Word) (s : State) : (setRes0 v s).params = s.params := rfl
@[simp] theorem setRes0_doneIE (v : Word) (s : State) : (setRes0 v s).doneIE = s.doneIE := rfl
@[simp] theorem setRes0_errIE (v : Word) (s : State) : (setRes0 v s).errIE = s.errIE := rfl
@[simp] theorem setRes0_busy (v : Word) (s : State) : (setRes0 v s).busy = s.busy := rfl
@[simp] theorem setRes0_keyValid (v : Word) (s : State) : (setRes0 v s).keyValid = s.keyValid := rfl
@[simp] theorem setRes0_done (v : Word) (s : State) : (setRes0 v s).done = s.done := rfl
@[simp] theorem setRes0_err (v : Word) (s : State) : (setRes0 v s).err = s.err := rfl
@[simp] theorem setRes0_errCode (v : Word) (s : State) : (setRes0 v s).errCode = s.errCode := rfl
@[simp] theorem setRes0_errInfo (v : Word) (s : State) : (setRes0 v s).errInfo = s.errInfo := rfl
@[simp] theorem setRes0_cfg (v : Word) (s : State) : (setRes0 v s).cfg = s.cfg := rfl
@[simp] theorem setRes0_key (v : Word) (s : State) : (setRes0 v s).key = s.key := rfl
@[simp] theorem setRes0_din (v : Word) (s : State) : (setRes0 v s).din = s.din := rfl
@[simp] theorem setRes0_dout (v : Word) (s : State) : (setRes0 v s).dout = s.dout := rfl
@[simp] theorem setRes0_arg0 (v : Word) (s : State) : (setRes0 v s).arg0 = s.arg0 := rfl
@[simp] theorem setRes0_arg1 (v : Word) (s : State) : (setRes0 v s).arg1 = s.arg1 := rfl
@[simp] theorem setRes0_res0 (v : Word) (s : State) : (setRes0 v s).res0 = v := rfl
@[simp] theorem setRes0_res1 (v : Word) (s : State) : (setRes0 v s).res1 = s.res1 := rfl
@[simp] theorem setRes0_rk (v : Word) (s : State) : (setRes0 v s).rk = s.rk := rfl
@[simp] theorem setRes0_pending (v : Word) (s : State) : (setRes0 v s).pending = s.pending := rfl
@[simp] theorem setRes0_script (v : Word) (s : State) : (setRes0 v s).script = s.script := rfl
@[simp] theorem setRes0_rdata (v : Word) (s : State) : (setRes0 v s).rdata = s.rdata := rfl
@[simp] theorem setRes0_draws (v : Word) (s : State) : (setRes0 v s).draws = s.draws := rfl

/-! ### RES0 and RES1 (R41) -/

@[simp] theorem setRes_params (v w : Word) (s : State) : (setRes v w s).params = s.params := rfl
@[simp] theorem setRes_doneIE (v w : Word) (s : State) : (setRes v w s).doneIE = s.doneIE := rfl
@[simp] theorem setRes_errIE (v w : Word) (s : State) : (setRes v w s).errIE = s.errIE := rfl
@[simp] theorem setRes_busy (v w : Word) (s : State) : (setRes v w s).busy = s.busy := rfl
@[simp] theorem setRes_keyValid (v w : Word) (s : State) : (setRes v w s).keyValid = s.keyValid := rfl
@[simp] theorem setRes_done (v w : Word) (s : State) : (setRes v w s).done = s.done := rfl
@[simp] theorem setRes_err (v w : Word) (s : State) : (setRes v w s).err = s.err := rfl
@[simp] theorem setRes_errCode (v w : Word) (s : State) : (setRes v w s).errCode = s.errCode := rfl
@[simp] theorem setRes_errInfo (v w : Word) (s : State) : (setRes v w s).errInfo = s.errInfo := rfl
@[simp] theorem setRes_cfg (v w : Word) (s : State) : (setRes v w s).cfg = s.cfg := rfl
@[simp] theorem setRes_key (v w : Word) (s : State) : (setRes v w s).key = s.key := rfl
@[simp] theorem setRes_din (v w : Word) (s : State) : (setRes v w s).din = s.din := rfl
@[simp] theorem setRes_dout (v w : Word) (s : State) : (setRes v w s).dout = s.dout := rfl
@[simp] theorem setRes_arg0 (v w : Word) (s : State) : (setRes v w s).arg0 = s.arg0 := rfl
@[simp] theorem setRes_arg1 (v w : Word) (s : State) : (setRes v w s).arg1 = s.arg1 := rfl
@[simp] theorem setRes_res0 (v w : Word) (s : State) : (setRes v w s).res0 = v := rfl
@[simp] theorem setRes_res1 (v w : Word) (s : State) : (setRes v w s).res1 = w := rfl
@[simp] theorem setRes_rk (v w : Word) (s : State) : (setRes v w s).rk = s.rk := rfl
@[simp] theorem setRes_pending (v w : Word) (s : State) : (setRes v w s).pending = s.pending := rfl
@[simp] theorem setRes_script (v w : Word) (s : State) : (setRes v w s).script = s.script := rfl
@[simp] theorem setRes_rdata (v w : Word) (s : State) : (setRes v w s).rdata = s.rdata := rfl
@[simp] theorem setRes_draws (v w : Word) (s : State) : (setRes v w s).draws = s.draws := rfl

/-! ### Discarding the key state (R160, R162) -/

@[simp] theorem dropKey_params (s : State) : (dropKey s).params = s.params := rfl
@[simp] theorem dropKey_doneIE (s : State) : (dropKey s).doneIE = s.doneIE := rfl
@[simp] theorem dropKey_errIE (s : State) : (dropKey s).errIE = s.errIE := rfl
@[simp] theorem dropKey_busy (s : State) : (dropKey s).busy = s.busy := rfl
@[simp] theorem dropKey_keyValid (s : State) : (dropKey s).keyValid = false := rfl
@[simp] theorem dropKey_done (s : State) : (dropKey s).done = s.done := rfl
@[simp] theorem dropKey_err (s : State) : (dropKey s).err = s.err := rfl
@[simp] theorem dropKey_errCode (s : State) : (dropKey s).errCode = s.errCode := rfl
@[simp] theorem dropKey_errInfo (s : State) : (dropKey s).errInfo = s.errInfo := rfl
@[simp] theorem dropKey_cfg (s : State) : (dropKey s).cfg = 0 := rfl
@[simp] theorem dropKey_key (s : State) : (dropKey s).key = Vector.replicate 8 0 := rfl
@[simp] theorem dropKey_din (s : State) : (dropKey s).din = s.din := rfl
@[simp] theorem dropKey_dout (s : State) : (dropKey s).dout = s.dout := rfl
@[simp] theorem dropKey_arg0 (s : State) : (dropKey s).arg0 = s.arg0 := rfl
@[simp] theorem dropKey_arg1 (s : State) : (dropKey s).arg1 = s.arg1 := rfl
@[simp] theorem dropKey_res0 (s : State) : (dropKey s).res0 = s.res0 := rfl
@[simp] theorem dropKey_res1 (s : State) : (dropKey s).res1 = s.res1 := rfl
@[simp] theorem dropKey_rk (s : State) : (dropKey s).rk = List.replicate (rkDepth s.params) 0 := rfl
@[simp] theorem dropKey_pending (s : State) : (dropKey s).pending = s.pending := rfl
@[simp] theorem dropKey_script (s : State) : (dropKey s).script = s.script := rfl
@[simp] theorem dropKey_rdata (s : State) : (dropKey s).rdata = s.rdata := rfl
@[simp] theorem dropKey_draws (s : State) : (dropKey s).draws = s.draws := rfl

/-! ### The output block (R200) -/

@[simp] theorem setOut_params (out : List Byte) (wb : Bool) (s : State) :
    (setOut out wb s).params = s.params := rfl
@[simp] theorem setOut_doneIE (out : List Byte) (wb : Bool) (s : State) :
    (setOut out wb s).doneIE = s.doneIE := rfl
@[simp] theorem setOut_errIE (out : List Byte) (wb : Bool) (s : State) :
    (setOut out wb s).errIE = s.errIE := rfl
@[simp] theorem setOut_busy (out : List Byte) (wb : Bool) (s : State) :
    (setOut out wb s).busy = s.busy := rfl
@[simp] theorem setOut_keyValid (out : List Byte) (wb : Bool) (s : State) :
    (setOut out wb s).keyValid = s.keyValid := rfl
@[simp] theorem setOut_done (out : List Byte) (wb : Bool) (s : State) :
    (setOut out wb s).done = s.done := rfl
@[simp] theorem setOut_err (out : List Byte) (wb : Bool) (s : State) :
    (setOut out wb s).err = s.err := rfl
@[simp] theorem setOut_errCode (out : List Byte) (wb : Bool) (s : State) :
    (setOut out wb s).errCode = s.errCode := rfl
@[simp] theorem setOut_errInfo (out : List Byte) (wb : Bool) (s : State) :
    (setOut out wb s).errInfo = s.errInfo := rfl
@[simp] theorem setOut_cfg (out : List Byte) (wb : Bool) (s : State) :
    (setOut out wb s).cfg = s.cfg := rfl
@[simp] theorem setOut_key (out : List Byte) (wb : Bool) (s : State) :
    (setOut out wb s).key = s.key := rfl
@[simp] theorem setOut_din (out : List Byte) (wb : Bool) (s : State) :
    (setOut out wb s).din =
      if wb then mapBytes s.din fun j old => if j < blockBytes s.params then out.getD j 0 else old else s.din := rfl
@[simp] theorem setOut_dout (out : List Byte) (wb : Bool) (s : State) :
    (setOut out wb s).dout =
      mapBytes s.dout fun j _ => if j < blockBytes s.params then out.getD j 0 else 0 := rfl
@[simp] theorem setOut_arg0 (out : List Byte) (wb : Bool) (s : State) :
    (setOut out wb s).arg0 = s.arg0 := rfl
@[simp] theorem setOut_arg1 (out : List Byte) (wb : Bool) (s : State) :
    (setOut out wb s).arg1 = s.arg1 := rfl
@[simp] theorem setOut_res0 (out : List Byte) (wb : Bool) (s : State) :
    (setOut out wb s).res0 = s.res0 := rfl
@[simp] theorem setOut_res1 (out : List Byte) (wb : Bool) (s : State) :
    (setOut out wb s).res1 = s.res1 := rfl
@[simp] theorem setOut_rk (out : List Byte) (wb : Bool) (s : State) : (setOut out wb s).rk = s.rk := rfl
@[simp] theorem setOut_pending (out : List Byte) (wb : Bool) (s : State) :
    (setOut out wb s).pending = s.pending := rfl
@[simp] theorem setOut_script (out : List Byte) (wb : Bool) (s : State) :
    (setOut out wb s).script = s.script := rfl
@[simp] theorem setOut_rdata (out : List Byte) (wb : Bool) (s : State) :
    (setOut out wb s).rdata = s.rdata := rfl
@[simp] theorem setOut_draws (out : List Byte) (wb : Bool) (s : State) :
    (setOut out wb s).draws = s.draws := rfl

/-! ### A successful LOAD_KEY (R160) -/

@[simp] theorem loadKeyState_params (m T j : Nat) (s : State) :
    (loadKeyState m T j s).params = s.params := rfl
@[simp] theorem loadKeyState_doneIE (m T j : Nat) (s : State) :
    (loadKeyState m T j s).doneIE = s.doneIE := rfl
@[simp] theorem loadKeyState_errIE (m T j : Nat) (s : State) :
    (loadKeyState m T j s).errIE = s.errIE := rfl
@[simp] theorem loadKeyState_busy (m T j : Nat) (s : State) : (loadKeyState m T j s).busy = s.busy := rfl
@[simp] theorem loadKeyState_keyValid (m T j : Nat) (s : State) :
    (loadKeyState m T j s).keyValid = true := rfl
@[simp] theorem loadKeyState_done (m T j : Nat) (s : State) : (loadKeyState m T j s).done = s.done := rfl
@[simp] theorem loadKeyState_err (m T j : Nat) (s : State) : (loadKeyState m T j s).err = s.err := rfl
@[simp] theorem loadKeyState_errCode (m T j : Nat) (s : State) :
    (loadKeyState m T j s).errCode = s.errCode := rfl
@[simp] theorem loadKeyState_errInfo (m T j : Nat) (s : State) :
    (loadKeyState m T j s).errInfo = s.errInfo := rfl
@[simp] theorem loadKeyState_cfg (m T j : Nat) (s : State) :
    (loadKeyState m T j s).cfg = cfgWord s.params m T j := rfl
@[simp] theorem loadKeyState_key (m T j : Nat) (s : State) :
    (loadKeyState m T j s).key = Vector.replicate 8 0 := rfl
@[simp] theorem loadKeyState_din (m T j : Nat) (s : State) : (loadKeyState m T j s).din = s.din := rfl
@[simp] theorem loadKeyState_dout (m T j : Nat) (s : State) : (loadKeyState m T j s).dout = s.dout := rfl
@[simp] theorem loadKeyState_arg0 (m T j : Nat) (s : State) : (loadKeyState m T j s).arg0 = s.arg0 := rfl
@[simp] theorem loadKeyState_arg1 (m T j : Nat) (s : State) : (loadKeyState m T j s).arg1 = s.arg1 := rfl
@[simp] theorem loadKeyState_res0 (m T j : Nat) (s : State) : (loadKeyState m T j s).res0 = s.res0 := rfl
@[simp] theorem loadKeyState_res1 (m T j : Nat) (s : State) : (loadKeyState m T j s).res1 = s.res1 := rfl
@[simp] theorem loadKeyState_rk (m T j : Nat) (s : State) :
    (loadKeyState m T j s).rk =
      ksExpand s.params s.key m T j ++ List.replicate (rkDepth s.params - T) 0 := rfl
@[simp] theorem loadKeyState_pending (m T j : Nat) (s : State) :
    (loadKeyState m T j s).pending = s.pending := rfl
@[simp] theorem loadKeyState_script (m T j : Nat) (s : State) :
    (loadKeyState m T j s).script = s.script := rfl
@[simp] theorem loadKeyState_rdata (m T j : Nat) (s : State) :
    (loadKeyState m T j s).rdata = s.rdata := rfl
@[simp] theorem loadKeyState_draws (m T j : Nat) (s : State) :
    (loadKeyState m T j s).draws = s.draws := rfl

/-! ### The start of a cycle -/

@[simp] theorem beginCycle_params (s : State) : (beginCycle s).params = s.params := rfl
@[simp] theorem beginCycle_doneIE (s : State) : (beginCycle s).doneIE = s.doneIE := rfl
@[simp] theorem beginCycle_errIE (s : State) : (beginCycle s).errIE = s.errIE := rfl
@[simp] theorem beginCycle_busy (s : State) : (beginCycle s).busy = s.busy := rfl
@[simp] theorem beginCycle_keyValid (s : State) : (beginCycle s).keyValid = s.keyValid := rfl
@[simp] theorem beginCycle_done (s : State) : (beginCycle s).done = s.done := rfl
@[simp] theorem beginCycle_err (s : State) : (beginCycle s).err = s.err := rfl
@[simp] theorem beginCycle_errCode (s : State) : (beginCycle s).errCode = s.errCode := rfl
@[simp] theorem beginCycle_errInfo (s : State) : (beginCycle s).errInfo = s.errInfo := rfl
@[simp] theorem beginCycle_cfg (s : State) : (beginCycle s).cfg = s.cfg := rfl
@[simp] theorem beginCycle_key (s : State) : (beginCycle s).key = s.key := rfl
@[simp] theorem beginCycle_din (s : State) : (beginCycle s).din = s.din := rfl
@[simp] theorem beginCycle_dout (s : State) : (beginCycle s).dout = s.dout := rfl
@[simp] theorem beginCycle_arg0 (s : State) : (beginCycle s).arg0 = s.arg0 := rfl
@[simp] theorem beginCycle_arg1 (s : State) : (beginCycle s).arg1 = s.arg1 := rfl
@[simp] theorem beginCycle_res0 (s : State) : (beginCycle s).res0 = s.res0 := rfl
@[simp] theorem beginCycle_res1 (s : State) : (beginCycle s).res1 = s.res1 := rfl
@[simp] theorem beginCycle_rk (s : State) : (beginCycle s).rk = s.rk := rfl
@[simp] theorem beginCycle_pending (s : State) : (beginCycle s).pending = s.pending := rfl
@[simp] theorem beginCycle_script (s : State) : (beginCycle s).script = s.script.tail := rfl
@[simp] theorem beginCycle_rdata (s : State) : (beginCycle s).rdata = none := rfl
@[simp] theorem beginCycle_draws (s : State) : (beginCycle s).draws = s.draws := rfl

end Sys2Proof.Machine
end

