-- ==== Sys2Proof/Machine/HostPrograms.lean ====
section
/-! DEFINITION. The host's notation of R89 and R90 as the cycles it makes on the core's pins: register
names as offsets, the assembler with its refusal, and the pseudo-instructions. Labels, `brs` and the
host's variables are the host's control flow, which the core never sees (R89; log 21). -/

namespace Sys2Proof.Machine

/-- The offset a register name stands for (R23, R89). -/
def offsetOf : Reg → Offset
  | .id => 0x00
  | .version => 0x04
  | .caps => 0x08
  | .ctrl => 0x0C
  | .status => 0x10
  | .cmd => 0x14
  | .cfg => 0x18
  | .errInfo => 0x1C
  | .key i => BitVec.ofNat 8 (0x20 + 4 * i)
  | .din i => BitVec.ofNat 8 (0x40 + 4 * i)
  | .dout i => BitVec.ofNat 8 (0x50 + 4 * i)
  | .arg0Lo => 0x60
  | .arg0Hi => 0x64
  | .arg1Lo => 0x68
  | .arg1Hi => 0x6C
  | .res0Lo => 0x70
  | .res0Hi => 0x74
  | .res1Lo => 0x78
  | .res1Hi => 0x7C
  | .unmapped => 0x80

/-- `wr REG, VALUE` (R89). -/
def wr (r : Reg) (v : Reg32) : Cycle := Cycle.busWrite (offsetOf r) v

/-- `rd REG` (R89). -/
def rd (r : Reg) : Cycle := Cycle.busRead (offsetOf r)

/-- The command line of an assembler: it refuses an operand that does not fit its field (R90). -/
def assemble (i : Instr) : Option Cycle :=
  if i.wellFormed then some (wr .cmd (encode i)) else none

/-- `wait` as the core sees it: reads of STATUS until one returns BUSY = 0. `k` reads come before the
completion, and the read of the cycle of the completion is the last (R90, R225). -/
def waitCycles (k : Nat) : List Cycle :=
  List.replicate k (rd .status) ++ [{ rd .status with engine := true }]

/-- `clr` clears DONE and ERR (R90). -/
def clr : Cycle := wr .status 0x0000000C

/-- `srst` (R90). -/
def srst : Cycle := wr .ctrl 0x80000000

/-- The register of bytes `4i .. 4i + 3` of a byte string, missing bytes 0 (R90). -/
def packReg (bytes : List Byte) (i : Nat) : Reg32 :=
  regOfBytes (bytes.getD (4 * i) 0) (bytes.getD (4 * i + 1) 0) (bytes.getD (4 * i + 2) 0)
    (bytes.getD (4 * i + 3) 0)

/-- `setkey b0 .. b(L-1)`: KEYi for i = 0 .. ceil(L/4) - 1 (R90). There is no KEY8: of more than 32 bytes
R90 does not say what becomes, and here the register index wraps mod 8 (DESIGN CHOICE, log 23). -/
def setKey (bytes : List Byte) : List Cycle :=
  (List.range ((bytes.length + 3) / 4)).map fun i => wr (.key (Fin.ofNat 8 i)) (packReg bytes i)

/-- `setblk b0 .. b(L-1)`: the same, writing DINi (R90). There is no DIN4: of more than 16 bytes R90 does
not say what becomes, and here the register index wraps mod 4 (DESIGN CHOICE, log 23). -/
def setBlk (bytes : List Byte) : List Cycle :=
  (List.range ((bytes.length + 3) / 4)).map fun i => wr (.din (Fin.ofNat 4 i)) (packReg bytes i)

/-- `setarg0 v` (R90). -/
def setArg0 (v : Word) : List Cycle :=
  [wr .arg0Lo (v.extractLsb' 0 32), wr .arg0Hi (v.extractLsb' 32 32)]

/-- `setarg1 v` (R90). -/
def setArg1 (v : Word) : List Cycle :=
  [wr .arg1Lo (v.extractLsb' 0 32), wr .arg1Hi (v.extractLsb' 32 32)]

end Sys2Proof.Machine
end

