-- ==== Sys2Proof/Laws/Bus.lean ====
section
/-! SUPPORT. The register interface: offsets by number against registers by name, and what a bus write
and a bus read can do, said once. -/

namespace Sys2Proof.Machine

/-! ### The map -/

theorem readOnlyOffset_iff : ∀ off : Offset, readOnlyOffset off ↔ (regAt off).rejectsWrites = true := by
  unfold readOnlyOffset
  decide +kernel

theorem lockedOffset_iff : ∀ off : Offset, lockedOffset off ↔ (regAt off).locked = true := by
  unfold lockedOffset
  decide +kernel

theorem resultOffset_iff : ∀ off : Offset, resultOffset off ↔ (regAt off).openWhileBusy = true := by
  unfold resultOffset
  decide +kernel

theorem regAt_mask : ∀ off : Offset, regAt (off &&& 0xFC) = regAt off := by decide +kernel

theorem mask_mask (off : Offset) : (off &&& 0xFC) &&& 0xFC = off &&& 0xFC := by
  rw [BitVec.and_assoc, BitVec.and_self]

theorem regAt_ctrl_iff : ∀ off : Offset, regAt off = .ctrl ↔ off &&& 0xFC = 0x0C := by decide +kernel

theorem regAt_status_iff : ∀ off : Offset, regAt off = .status ↔ off &&& 0xFC = 0x10 := by decide +kernel

theorem regAt_cmd_iff : ∀ off : Offset, regAt off = .cmd ↔ off &&& 0xFC = 0x14 := by decide +kernel

/-- The offset of a mapped register's name is the offset without `addr[1:0]` (R67, R89). -/
theorem offsetOf_regAt : ∀ off : Offset, regAt off ≠ .unmapped →
    offsetOf (regAt off) = off &&& 0xFC := by decide +kernel

/-- Two offsets reach one mapped register only if they differ in `addr[1:0]` alone (R67). -/
theorem regAt_inj {off off' : Offset} (h : regAt off = regAt off') (hu : regAt off ≠ .unmapped) :
    off &&& 0xFC = off' &&& 0xFC := by
  rw [← offsetOf_regAt off hu, h, offsetOf_regAt off' (h ▸ hu)]

/-- A register's name stands for its offset (R89). -/
theorem regAt_offsetOf (r : Reg) : regAt (offsetOf r) = r := by
  cases r with
  | key i => revert i; decide
  | din i => revert i; decide
  | dout i => revert i; decide
  | _ => decide

theorem not_locked_of_rejects {r : Reg} (h : r.rejectsWrites = true) : r.locked = false := by
  cases r <;> simp_all [Reg.rejectsWrites, Reg.locked]

/-! ### Writes -/

theorem busError_eq (e : ErrCode) (off : Offset) (s : State) :
    busError e off s = writeErrorState e off s := rfl

theorem busWrite_rejected {s : State} {off : Offset} (v : Reg32)
    (h : (regAt off).rejectsWrites = true) : busWrite off v s = writeErrorState .access off s := by
  simp [busWrite, h, busError_eq]

theorem busWrite_locked {s : State} {off : Offset} (v : Reg32) (h : (regAt off).locked = true)
    (hb : s.busy = true) : busWrite off v s = writeErrorState .busyWrite off s := by
  have h' : (regAt off).rejectsWrites = false := by
    cases h'' : (regAt off).rejectsWrites
    · rfl
    · rw [not_locked_of_rejects h''] at h
      cases h
  simp [busWrite, h, h', hb, busError_eq]

theorem busWrite_stored {s : State} {off : Offset} (v : Reg32)
    (h : (regAt off).rejectsWrites = false) (hb : s.busy = false ∨ (regAt off).locked = false) :
    busWrite off v s = storeReg (regAt off) v s := by
  rcases hb with hb | hb <;> simp [busWrite, h, hb]

/-- What a bus write can do: an error report, a store, or nothing else. -/
theorem busWrite_cases (off : Offset) (v : Reg32) (s : State) :
    (∃ e, e ≠ .none ∧ busWrite off v s = writeErrorState e off s) ∨
    ((regAt off).rejectsWrites = false ∧ (s.busy = false ∨ (regAt off).locked = false) ∧
      busWrite off v s = storeReg (regAt off) v s) := by
  cases h : (regAt off).rejectsWrites
  · cases hb : s.busy
    · exact .inr ⟨rfl, .inl rfl, busWrite_stored v h (.inl hb)⟩
    · cases hl : (regAt off).locked
      · exact .inr ⟨rfl, .inr rfl, busWrite_stored v h (.inr hl)⟩
      · exact .inl ⟨.busyWrite, by decide, busWrite_locked v hl hb⟩
  · exact .inl ⟨.access, by decide, busWrite_rejected v h⟩

/-- What an accepted write can do. -/
inductive StoreEffect (v : Reg32) (s : State) : Reg → State → Prop where
  | reset : v.getLsbD 31 = true → StoreEffect v s .ctrl (resetCore s)
  | enables : v.getLsbD 31 = false →
      StoreEffect v s .ctrl { s with doneIE := v.getLsbD 0, errIE := v.getLsbD 1 }
  | clears : StoreEffect v s .status (writeStatus v s)
  | issues : StoreEffect v s .cmd (issue v s)
  | key (i : Fin 8) : StoreEffect v s (.key i) { s with key := s.key.set i v }
  | din (i : Fin 4) : StoreEffect v s (.din i) { s with din := s.din.set i v }
  | arg0 (r : Reg) (w : Word) : r.locked = true → StoreEffect v s r { s with arg0 := w }
  | arg1 (r : Reg) (w : Word) : r.locked = true → StoreEffect v s r { s with arg1 := w }

theorem storeReg_effect {r : Reg} (h : r.rejectsWrites = false) (v : Reg32) (s : State) :
    StoreEffect v s r (storeReg r v s) := by
  cases r with
  | ctrl =>
    cases hv : v.getLsbD 31
    · rw [storeReg, writeCtrl, if_neg (by simp only [hv, Bool.false_eq_true, not_false_eq_true])]
      exact .enables hv
    · rw [storeReg, writeCtrl, if_pos hv]
      exact .reset hv
  | status => exact .clears
  | cmd => exact .issues
  | key i => exact .key i
  | din i => exact .din i
  | arg0Lo => exact .arg0 _ _ rfl
  | arg0Hi => exact .arg0 _ _ rfl
  | arg1Lo => exact .arg1 _ _ rfl
  | arg1Hi => exact .arg1 _ _ rfl
  | _ => cases h

/-! ### Reads -/

theorem busRead_open {s : State} {off : Offset} (hb : s.busy = true)
    (h : (regAt off).openWhileBusy = true) :
    busRead off s = { s with rdata := some (Config.freeRead s.draws), draws := s.draws + 1 } := by
  simp [busRead, hb, h]

theorem busRead_defined {s : State} {off : Offset}
    (h : ¬ (s.busy = true ∧ (regAt off).openWhileBusy = true)) :
    busRead off s = { s with rdata := some (readReg (regAt off) s) } := by
  cases hb : s.busy <;> cases ho : (regAt off).openWhileBusy <;> simp_all [busRead]

/-- A read changes only what it drives and the count of draws (R70). -/
theorem busRead_frame (off : Offset) (s : State) :
    ∃ v d, busRead off s = { s with rdata := some v, draws := d } := by
  by_cases h : s.busy = true ∧ (regAt off).openWhileBusy = true
  · exact ⟨_, _, busRead_open h.1 h.2⟩
  · exact ⟨_, s.draws, by rw [busRead_defined h]⟩

theorem reads_defined {s : State} {off : Offset} (h : (regAt off).openWhileBusy = false) :
    reads off (readReg (regAt off) s) s := by
  rw [reads, busRead_defined (by simp [h])]

theorem reads_idle {s : State} (hb : s.busy = false) (off : Offset) :
    reads off (readReg (regAt off) s) s := by
  rw [reads, busRead_defined (by simp [hb])]

/-! ### The halves of a 64-bit register (R40) -/

theorem extract_append_low {n m : Nat} (a : BitVec n) (b : BitVec m) :
    (a ++ b).extractLsb' 0 m = b := by
  ext i hi
  simp [BitVec.getLsbD_append, hi]

theorem extract_append_high {n m : Nat} (a : BitVec n) (b : BitVec m) :
    (a ++ b).extractLsb' m n = a := by
  ext i hi
  simp [BitVec.getLsbD_append, hi]

@[simp] theorem withLo_low (w : Word) (v : Reg32) : (withLo w v).extractLsb' 0 32 = v :=
  extract_append_low _ _

@[simp] theorem withLo_high (w : Word) (v : Reg32) :
    (withLo w v).extractLsb' 32 32 = w.extractLsb' 32 32 := extract_append_high _ _

@[simp] theorem withHi_low (w : Word) (v : Reg32) :
    (withHi w v).extractLsb' 0 32 = w.extractLsb' 0 32 := extract_append_low _ _

@[simp] theorem withHi_high (w : Word) (v : Reg32) : (withHi w v).extractLsb' 32 32 = v :=
  extract_append_high _ _

/-! ### The transfer of a cycle -/

theorem busPhase_cases (c : Cycle) (s : State) :
    (c.sel = false ∧ busPhase c s = s) ∨
    (c.sel = true ∧ c.write = true ∧ busPhase c s = busWrite c.addr c.wdata s) ∨
    (c.sel = true ∧ c.write = false ∧ busPhase c s = busRead c.addr s) := by
  cases h : c.sel <;> cases h' : c.write <;> simp [busPhase, h, h']

end Sys2Proof.Machine
end

