-- ==== Sys2Proof/Laws/Commands.lean ====
section
/-! SUPPORT. What each command can do, said once: its outcomes, and for all commands together the few
effects a command can have. -/

namespace Sys2Proof.Machine

/-! ### Completion -/

theorem complete_finished (s : State) : complete (.finished s) = finish s := rfl

theorem complete_raised (e : ErrCode) (s : State) :
    complete (.raised e s) = commandErrorState e s := rfl

@[simp] theorem complete_busy (r : ExecEnd) : (complete r).busy = false := by cases r <;> rfl

@[simp] theorem complete_done (r : ExecEnd) : (complete r).done = true := by cases r <;> rfl

theorem reportError_first {s : State} (h : s.err = false) (e : ErrCode) (info : Reg32) :
    reportError e info s = { s with err := true, errCode := e, errInfo := info } := by
  simp [reportError, h]

theorem reportError_later {s : State} (h : s.err = true) (e : ErrCode) (info : Reg32) :
    reportError e info s = s := by
  cases s
  simp_all [reportError]

/-! ### One lemma per command -/

theorem execNop_eq (s : State) : exec .nop s = .next (finish s) := rfl

theorem execClearKey_eq (s : State) : exec .clearKey s = .next (finish (dropKey s)) := rfl

theorem execLoadKey_bad {s : State} {len : Nat} (h : keyConfig s.params len = none) :
    exec (.loadKey len) s = .next (commandErrorState .config (dropKey s)) := by
  simp [exec, execLoadKey, h, complete_raised]

theorem execLoadKey_ok {s : State} {len m T j : Nat} (h : keyConfig s.params len = some (m, T, j)) :
    exec (.loadKey len) s = .next (finish (loadKeyState m T j s)) := by
  simp [exec, execLoadKey, h, complete_finished]

theorem execRkRead_cases (i : Nat) (s : State) : exec (.rkRead i) s = .next
    (if s.keyValid = false then commandErrorState .noKey s
     else if cfgRounds s ≤ i then commandErrorState .badOperand s
     else finish (setRes0 (rkAt s.rk i) s)) := by
  cases h : s.keyValid <;> by_cases h' : cfgRounds s ≤ i <;>
    simp [exec, execRkRead, h, h', complete_raised, complete_finished]

theorem roundCheck_cases (i : Nat) (s : State) :
    (s.keyValid = false ∧ roundCheck i s = some .noKey) ∨
    (s.keyValid = true ∧ (cfgRounds s ≤ i ∨ arg0Ok s = false ∨ arg1Ok s = false) ∧
      roundCheck i s = some .badOperand) ∨
    (s.keyValid = true ∧ i < cfgRounds s ∧ arg0Ok s = true ∧ arg1Ok s = true ∧
      roundCheck i s = none) := by
  cases h : s.keyValid
  · exact .inl ⟨rfl, by simp [roundCheck, h]⟩
  · by_cases h1 : cfgRounds s ≤ i
    · exact .inr (.inl ⟨rfl, .inl h1, by simp [roundCheck, h, h1]⟩)
    · cases h2 : arg0Ok s
      · exact .inr (.inl ⟨rfl, .inr (.inl rfl), by simp [roundCheck, h, h2]⟩)
      · cases h3 : arg1Ok s
        · exact .inr (.inl ⟨rfl, .inr (.inr rfl), by simp [roundCheck, h, h3]⟩)
        · exact .inr (.inr ⟨rfl, Nat.lt_of_not_le h1, rfl, rfl, by simp [roundCheck, h, h1, h2, h3]⟩)

theorem execRoundEnc_raise {s : State} {i : Nat} {e : ErrCode} (h : roundCheck i s = some e) :
    exec (.roundEnc i) s = .next (commandErrorState e s) := by
  simp [exec, execRoundEnc, h, complete_raised]

theorem execRoundEnc_ok {s : State} {i : Nat} (h : roundCheck i s = none) :
    exec (.roundEnc i) s = .next (finish (setRes
      (rnd (bitsOf s) (rkAt s.rk i) ⟨s.arg0, s.arg1⟩).x
      (rnd (bitsOf s) (rkAt s.rk i) ⟨s.arg0, s.arg1⟩).y s)) := by
  simp [exec, execRoundEnc, h, complete_finished]

theorem execRoundDec_raise {s : State} {i : Nat} {e : ErrCode} (h : roundCheck i s = some e) :
    exec (.roundDec i) s = .next (commandErrorState e s) := by
  simp [exec, execRoundDec, h, complete_raised]

theorem execRoundDec_ok {s : State} {i : Nat} (h : roundCheck i s = none) :
    exec (.roundDec i) s = .next (finish (setRes
      (rndInv (bitsOf s) (rkAt s.rk i) ⟨s.arg0, s.arg1⟩).x
      (rndInv (bitsOf s) (rkAt s.rk i) ⟨s.arg0, s.arg1⟩).y s)) := by
  simp [exec, execRoundDec, h, complete_finished]

theorem execRotl_cases (a : Nat) (s : State) : exec (.rotl a) s = .next
    (if rotationRefused a s = true then commandErrorState .badOperand s
     else finish (setRes0 (rotl (bitsOf s) s.arg0 a) s)) := by
  cases h : rotationRefused a s <;> simp [exec, execRotl, h, complete_raised, complete_finished]

theorem execRotr_cases (a : Nat) (s : State) : exec (.rotr a) s = .next
    (if rotationRefused a s = true then commandErrorState .badOperand s
     else finish (setRes0 (rotr (bitsOf s) s.arg0 a) s)) := by
  cases h : rotationRefused a s <;> simp [exec, execRotr, h, complete_raised, complete_finished]

theorem rotationRefused_iff {a : Nat} {s : State} :
    rotationRefused a s = true ↔ bitsOf s ≤ a ∨ 2 ^ bitsOf s ≤ s.arg0.toNat := by
  simp [rotationRefused, arg0Ok, isWord]

theorem execScramble_cases (s : State) : exec .scramble s = .next
    (if arg0Ok s = false then commandErrorState .badOperand s
     else finish (setRes0 (scramble (bitsOf s) s.arg0) s)) := by
  cases h : arg0Ok s <;> simp [exec, execScramble, h, complete_raised, complete_finished]

theorem execZbit_bad {s : State} {i kw : Nat} (h : ctLookup s.params kw = none) :
    exec (.zbit i kw) s = .next (commandErrorState .config s) := by
  simp [exec, execZbit, h, complete_raised]

theorem execZbit_ok {s : State} {i kw T j : Nat} (h : ctLookup s.params kw = some (T, j)) :
    exec (.zbit i kw) s = .next (finish
      (setRes (BitVec.ofNat 64 (ctBit j i).toNat) (BitVec.ofNat 64 j) s)) := by
  simp [exec, execZbit, h, complete_finished]

theorem blockCheck_cases (len : Nat) (s : State) :
    (s.keyValid = false ∧ blockCheck len s = some .noKey) ∨
    (s.keyValid = true ∧ len ≠ blockBytes s.params ∧ blockCheck len s = some .blockSize) ∨
    (s.keyValid = true ∧ len = blockBytes s.params ∧ blockCheck len s = none) := by
  cases h : s.keyValid
  · exact .inl ⟨rfl, by simp [blockCheck, h]⟩
  · by_cases h1 : len = blockBytes s.params
    · exact .inr (.inr ⟨rfl, h1, by simp [blockCheck, h, h1]⟩)
    · exact .inr (.inl ⟨rfl, h1, by simp [blockCheck, h, h1]⟩)

theorem execEncrypt_raise {s : State} {len : Nat} {wb : Bool} {e : ErrCode}
    (h : blockCheck len s = some e) :
    exec (.encrypt len wb) s = .next (commandErrorState e s) := by
  simp [exec, execEncrypt, h, complete_raised]

theorem execEncrypt_ok {s : State} {len : Nat} {wb : Bool} (h : blockCheck len s = none) :
    exec (.encrypt len wb) s = .next (finish (setOut (blockOut s.params
      (simonEnc (bitsOf s) s.rk (cfgRounds s) (dinBlock s))) wb s)) := by
  simp [exec, execEncrypt, h, complete_finished]

theorem execDecrypt_raise {s : State} {len : Nat} {wb : Bool} {e : ErrCode}
    (h : blockCheck len s = some e) :
    exec (.decrypt len wb) s = .next (commandErrorState e s) := by
  simp [exec, execDecrypt, h, complete_raised]

theorem execDecrypt_ok {s : State} {len : Nat} {wb : Bool} (h : blockCheck len s = none) :
    exec (.decrypt len wb) s = .next (finish (setOut (blockOut s.params
      (simonDec (bitsOf s) s.rk (cfgRounds s) (dinBlock s))) wb s)) := by
  simp [exec, execDecrypt, h, complete_finished]

/-- What LOAD_KEY accepts is a row of the table the build accepts (R123, R160). -/
theorem keyConfig_eq_some {p : Params} {len m T j : Nat} (h : keyConfig p len = some (m, T, j)) :
    len = m * wordBytes p ∧ ctLookup p m = some (T, j) := by
  unfold keyConfig at h
  split at h
  · next h0 =>
    obtain ⟨⟨T', j'⟩, h1, h2⟩ := Option.map_eq_some_iff.mp h
    simp only [Prod.mk.injEq] at h2
    obtain ⟨rfl, rfl, rfl⟩ := h2
    exact ⟨(Nat.div_mul_cancel (Nat.dvd_of_mod_eq_zero h0)).symm, h1⟩
  · cases h

theorem ctLookup_row {p : Params} {m T j : Nat} (h : ctLookup p m = some (T, j)) :
    ∃ r ∈ acceptedRows p, r.keyWords = m ∧ r.rounds = T ∧ r.zsel = j := by
  obtain ⟨r, h1, h2⟩ := Option.map_eq_some_iff.mp h
  simp only [Prod.mk.injEq] at h2
  exact ⟨r, List.mem_of_find?_eq_some h1, by simpa using List.find?_some h1, h2.1, h2.2⟩

theorem ctLookup_of_row {p : Params} {r : ConfigRow} (hr : r ∈ acceptedRows p) :
    ctLookup p r.keyWords = some (r.rounds, r.zsel) := by
  revert r
  cases p <;> decide

/-- The key length of an accepted row selects it (R160). -/
theorem keyConfig_of_row {p : Params} {r : ConfigRow} (hr : r ∈ acceptedRows p) :
    keyConfig p (r.keyWords * wordBytes p) = some (r.keyWords, r.rounds, r.zsel) := by
  have hpos : 0 < wordBytes p := by cases p <;> decide
  rw [keyConfig, if_pos (by simp), Nat.mul_div_cancel _ hpos, ctLookup_of_row hr]
  rfl

/-- What holds of every accepted row: bounds of its fields within its build. -/
theorem acceptedRow_bounds {p : Params} {r : ConfigRow} (hr : r ∈ acceptedRows p) :
    2 ≤ r.keyWords ∧ r.keyWords ≤ 4 ∧ r.keyWords < r.rounds ∧ r.rounds ≤ rkDepth p ∧ r.zsel ≤ 4 := by
  revert r
  cases p <;> decide

/-- The bytes of DOUT after a block is written (R39). -/
theorem setOut_doutByte (out : List Byte) (wb : Bool) (s : State) {j : Nat} (hj : j < 16) :
    byteAt (setOut out wb s).dout j = if j < blockBytes s.params then out.getD j 0 else 0 := by
  simp only [setOut]
  rw [byteAt_mapBytes _ _ (by omega)]

/-- The bytes of DIN after a block is written (R38). -/
theorem setOut_dinByte (out : List Byte) (wb : Bool) (s : State) {j : Nat} (hj : j < 16) :
    byteAt (setOut out wb s).din j =
      if wb = true ∧ j < blockBytes s.params then out.getD j 0 else byteAt s.din j := by
  cases wb
  · simp [setOut]
  · simp only [setOut, if_true, true_and]
    rw [byteAt_mapBytes _ _ (by omega)]

/-! ### All commands -/

/-- The effects a command can have. -/
inductive CommandEffect (i : Instr) (s : State) : State → Prop where
  /-- Only BUSY and DONE change. -/
  | nothing : i = .nop → CommandEffect i s (finish s)
  /-- The command fails. -/
  | error (e : ErrCode) : e ≠ .none → CommandEffect i s (commandErrorState e s)
  /-- LOAD_KEY with a length that no configuration accepts. -/
  | badKey (len : Nat) : i = .loadKey len → CommandEffect i s (commandErrorState .config (dropKey s))
  /-- LOAD_KEY of an accepted configuration. -/
  | key (len : Nat) (r : ConfigRow) : i = .loadKey len → r ∈ acceptedRows s.params →
      CommandEffect i s (finish (loadKeyState r.keyWords r.rounds r.zsel s))
  /-- CLEAR_KEY. -/
  | noKey : i = .clearKey → CommandEffect i s (finish (dropKey s))
  /-- A result in RES0. -/
  | result (v : Word) :
      (i = .scramble ∨ ∃ k, i = .rkRead k ∨ i = .rotl k ∨ i = .rotr k) →
      (s.rk.all (isWord (bitsOf s)) = true → isWord (bitsOf s) v = true) →
      CommandEffect i s (finish (setRes0 v s))
  /-- Results in RES0 and RES1. -/
  | results (v w : Word) :
      (∃ k kw, i = .roundEnc k ∨ i = .roundDec k ∨ i = .zbit k kw) →
      (s.rk.all (isWord (bitsOf s)) = true → isWord (bitsOf s) v = true ∧ isWord (bitsOf s) w = true) →
      CommandEffect i s (finish (setRes v w s))
  /-- A block in DOUT, and with write-back in DIN. -/
  | block (len : Nat) (out : List Byte) (wb : Bool) : (i = .encrypt len wb ∨ i = .decrypt len wb) →
      CommandEffect i s (finish (setOut out wb s))

theorem isWord_small {n v : Nat} (hn : 16 ≤ n) (hv : v < 2 ^ 16) : isWord n (BitVec.ofNat 64 v) = true := by
  rw [isWord_iff, BitVec.toNat_ofNat]
  exact Nat.lt_of_le_of_lt (Nat.mod_le _ _) (Nat.lt_of_lt_of_le hv (Nat.pow_le_pow_right (by decide) hn))

theorem wordBits_ge (p : Params) : 16 ≤ wordBits p := by cases p <;> decide

/-- Every command completes, with one of the effects above. -/
theorem exec_effect (i : Instr) (s : State) : ∃ t, exec i s = .next t ∧ CommandEffect i s t := by
  have hn : bitsOf s ≤ 64 := wordBits_le s.params
  cases i with
  | nop => exact ⟨_, execNop_eq s, .nothing rfl⟩
  | loadKey len =>
    cases h : keyConfig s.params len with
    | none => exact ⟨_, execLoadKey_bad h, .badKey len rfl⟩
    | some c =>
      obtain ⟨m, T, j⟩ := c
      obtain ⟨r, hr, rfl, rfl, rfl⟩ := ctLookup_row (keyConfig_eq_some h).2
      exact ⟨_, execLoadKey_ok h, .key len r rfl hr⟩
  | encrypt len wb =>
    rcases blockCheck_cases len s with ⟨-, h⟩ | ⟨-, -, h⟩ | ⟨-, -, h⟩
    · exact ⟨_, execEncrypt_raise h, .error _ (by decide)⟩
    · exact ⟨_, execEncrypt_raise h, .error _ (by decide)⟩
    · exact ⟨_, execEncrypt_ok h, .block len _ wb (.inl rfl)⟩
  | decrypt len wb =>
    rcases blockCheck_cases len s with ⟨-, h⟩ | ⟨-, -, h⟩ | ⟨-, -, h⟩
    · exact ⟨_, execDecrypt_raise h, .error _ (by decide)⟩
    · exact ⟨_, execDecrypt_raise h, .error _ (by decide)⟩
    · exact ⟨_, execDecrypt_ok h, .block len _ wb (.inr rfl)⟩
  | clearKey => exact ⟨_, execClearKey_eq s, .noKey rfl⟩
  | rkRead k =>
    refine ⟨_, execRkRead_cases k s, ?_⟩
    split
    · exact .error _ (by decide)
    split
    · exact .error _ (by decide)
    · exact .result _ (.inr ⟨k, .inl rfl⟩) fun hk => rkAt_isWord hk k
  | roundEnc k =>
    rcases roundCheck_cases k s with ⟨-, h⟩ | ⟨-, -, h⟩ | ⟨-, -, h0, h1, h⟩
    · exact ⟨_, execRoundEnc_raise h, .error _ (by decide)⟩
    · exact ⟨_, execRoundEnc_raise h, .error _ (by decide)⟩
    · exact ⟨_, execRoundEnc_ok h, .results _ _ ⟨k, 0, .inl rfl⟩ fun hk =>
        rnd_isWords hn (rkAt_isWord hk k) ⟨h0, h1⟩⟩
  | roundDec k =>
    rcases roundCheck_cases k s with ⟨-, h⟩ | ⟨-, -, h⟩ | ⟨-, -, h0, h1, h⟩
    · exact ⟨_, execRoundDec_raise h, .error _ (by decide)⟩
    · exact ⟨_, execRoundDec_raise h, .error _ (by decide)⟩
    · exact ⟨_, execRoundDec_ok h, .results _ _ ⟨k, 0, .inr (.inl rfl)⟩ fun hk =>
        rndInv_isWords hn (rkAt_isWord hk k) ⟨h0, h1⟩⟩
  | rotl a =>
    refine ⟨_, execRotl_cases a s, ?_⟩
    split
    · exact .error _ (by decide)
    · next h =>
      refine .result _ (.inr ⟨a, .inr (.inl rfl)⟩) fun _ => rotl_isWord hn ?_
      rw [rotationRefused_iff] at h
      exact isWord_iff.mpr (by omega)
  | rotr a =>
    refine ⟨_, execRotr_cases a s, ?_⟩
    split
    · exact .error _ (by decide)
    · next h =>
      refine .result _ (.inr ⟨a, .inr (.inr rfl)⟩) fun _ => rotr_isWord hn ?_
      rw [rotationRefused_iff] at h
      exact isWord_iff.mpr (by omega)
  | scramble =>
    refine ⟨_, execScramble_cases s, ?_⟩
    split
    · exact .error _ (by decide)
    · exact .result _ (.inl rfl) fun _ => scramble_isWord hn _
  | zbit k kw =>
    cases h : ctLookup s.params kw with
    | none => exact ⟨_, execZbit_bad h, .error _ (by decide)⟩
    | some c =>
      obtain ⟨T, j⟩ := c
      obtain ⟨r, hr, -, -, rfl⟩ := ctLookup_row h
      have hz := (acceptedRow_bounds hr).2.2.2.2
      have h16 : 16 ≤ bitsOf s := wordBits_ge s.params
      exact ⟨_, execZbit_ok h, .results _ _ ⟨k, kw, .inr (.inr rfl)⟩ fun _ =>
        ⟨isWord_small h16 (by cases ctBit r.zsel k <;> decide), isWord_small h16 (by omega)⟩⟩

/-- What a command that has run did. -/
theorem effect_of_exec {i : Instr} {s t : State} (h : exec i s = .next t) : CommandEffect i s t := by
  obtain ⟨u, hu, he⟩ := exec_effect i s
  rw [h] at hu
  injection hu with hu
  exact hu ▸ he

/-- A completion ends with BUSY = 0 and DONE = 1 (R104). -/
theorem CommandEffect.flags {i : Instr} {s t : State} (h : CommandEffect i s t) :
    t.busy = false ∧ t.done = true := by
  cases h <;> exact ⟨rfl, rfl⟩

end Sys2Proof.Machine
end

