-- ==== Sys2Proof/Laws/Decode.lean ====
section
/-! SUPPORT. The decoder says the row a word matches, and only that one (R86, R87); the fields of an
encoded word. -/

namespace Sys2Proof

theorem opcodeRow_mask : ∀ r ∈ opcodeRows, r.mask &&& 0xFF = 0xFF ∧ r.mtch &&& 0xFF = r.mtch := by
  intro r hr
  simp only [opcodeRows, List.mem_cons, List.not_mem_nil, or_false] at hr
  rcases hr with rfl | rfl | rfl | rfl | rfl | rfl | rfl | rfl | rfl | rfl | rfl | rfl <;> decide

/-- Every mask covers `[7:0]` (R86), so a match fixes OP. -/
theorem op_of_match {w : Reg32} {r : OpcodeRow} (hr : r ∈ opcodeRows) (h : w &&& r.mask = r.mtch) :
    w &&& 0xFF = r.mtch := by
  obtain ⟨h1, h2⟩ := opcodeRow_mask r hr
  rw [← h1, ← BitVec.and_assoc, h, h2]

theorem opcodeRow_eq {r r' : OpcodeRow} (hr : r ∈ opcodeRows) (hr' : r' ∈ opcodeRows)
    (h : r.mtch = r'.mtch) : r = r' := by
  simp only [opcodeRows, List.mem_cons, List.not_mem_nil, or_false] at hr hr'
  rcases hr with rfl | rfl | rfl | rfl | rfl | rfl | rfl | rfl | rfl | rfl | rfl | rfl <;>
    rcases hr' with rfl | rfl | rfl | rfl | rfl | rfl | rfl | rfl | rfl | rfl | rfl | rfl <;>
    first
    | rfl
    | exact absurd h (by decide)

/-- The row found is the row that matches. -/
theorem matchRow_eq_some {w : Reg32} {r : OpcodeRow} :
    matchRow w = some r ↔ r ∈ opcodeRows ∧ w &&& r.mask = r.mtch := by
  constructor
  · intro h
    exact ⟨List.mem_of_find?_eq_some h, by simpa using List.find?_some h⟩
  · rintro ⟨hr, h⟩
    cases hm : matchRow w with
    | none => exact absurd h (by simpa using List.find?_eq_none.mp hm r hr)
    | some r' =>
      have h' : w &&& r'.mask = r'.mtch := by simpa using List.find?_some hm
      have hr' := List.mem_of_find?_eq_some hm
      rw [opcodeRow_eq hr' hr ((op_of_match hr' h').symm.trans (op_of_match hr h))]

/-- A word that matches a row decodes to that row's command (R87). -/
theorem decode_of_match {w : Reg32} {r : OpcodeRow} (hr : r ∈ opcodeRows)
    (h : w &&& r.mask = r.mtch) : decode w = .ok (r.build w) := by
  rw [decode, matchRow_eq_some.mpr ⟨hr, h⟩]

/-- A decoded word matches a row (R87). -/
theorem match_of_decode {w : Reg32} {i : Instr} (h : decode w = .ok i) :
    ∃ r ∈ opcodeRows, w &&& r.mask = r.mtch ∧ i = r.build w := by
  unfold decode at h
  split at h
  · next r hr =>
    obtain ⟨h1, h2⟩ := matchRow_eq_some.mp hr
    exact ⟨r, h1, h2, by injection h with h; exact h.symm⟩
  · split at h <;> cases h

/-- A word that matches no row is rejected by the name its OP gives (R87, R88). -/
theorem decode_of_no_match {w : Reg32} (h : ∀ r ∈ opcodeRows, w &&& r.mask ≠ r.mtch) :
    decode w = if opOf w < 12 then .error .nonzeroUnusedBits else .error .reservedOp := by
  have : matchRow w = none := by
    rw [matchRow, List.find?_eq_none]
    intro r hr
    simpa using h r hr
  rw [decode, this]

/-- OP as a number of the word (R81). -/
theorem opOf_eq (w : Reg32) : opOf w = w.toNat % 256 := by
  simp [opOf, BitVec.extractLsb'_toNat]

/-- IMM8 as a number of the word (R82). -/
theorem imm8Of_eq (w : Reg32) : imm8Of w = w.toNat / 256 % 256 := by
  simp [imm8Of, BitVec.extractLsb'_toNat, Nat.shiftRight_eq_div_pow]

/-- KW as a number of the word (R83). -/
theorem kwOf_eq (w : Reg32) : kwOf w = w.toNat / 65536 % 8 := by
  simp [kwOf, BitVec.extractLsb'_toNat, Nat.shiftRight_eq_div_pow]

theorem imm8Of_lt (w : Reg32) : imm8Of w < 256 := (w.extractLsb' 8 8).isLt

theorem kwOf_lt (w : Reg32) : kwOf w < 8 := (w.extractLsb' 16 3).isLt

theorem and_allBits (w : Reg32) : w &&& 0xFFFFFFFF = w := BitVec.and_allOnes

theorem opByte_toNat (w : Reg32) : (w &&& 0xFF).toNat = w.toNat % 256 := by
  rw [BitVec.toNat_and]
  exact Nat.and_two_pow_sub_one_eq_mod _ 8

/-- The IMM8 field in its place is the word under that field's mask (R82). -/
theorem imm8Of_shifted (w : Reg32) : BitVec.ofNat 32 (imm8Of w) <<< 8 = w &&& 0x0000FF00 := by
  rw [imm8Of, BitVec.ofNat_toNat]
  ext j hj
  interval_cases j <;> simp

/-- The KW field in its place is the word under that field's mask (R83). -/
theorem kwOf_shifted (w : Reg32) : BitVec.ofNat 32 (kwOf w) <<< 16 = w &&& 0x00070000 := by
  rw [kwOf, BitVec.ofNat_toNat]
  ext j hj
  interval_cases j <;> simp

/-- The WB bit in its place is the word under that bit's mask (R84). -/
theorem wbOf_shifted (w : Reg32) : encodeWb (wbOf w) = w &&& 0x01000000 := by
  ext j hj
  cases hw : wbOf w <;> simp only [encodeWb] <;> rw [wbOf, BitVec.getLsbD_eq_getElem (by decide)] at hw <;>
    interval_cases j <;> simp [hw]

/-- The fields of `OP | (imm << 8)` (R82, R90). -/
theorem encodeImm_fields : ∀ op, op < 12 → ∀ v, v < 256 →
    encodeImm op v &&& 0xFFFF00FF = BitVec.ofNat 32 op ∧ imm8Of (encodeImm op v) = v := by
  decide +kernel

/-- The fields of `OP | (len << 8) | (wb << 24)` (R82, R84, R90). -/
theorem encodeBlock_fields : ∀ op, op < 4 → ∀ v, v < 256 → ∀ wb : Bool,
    let w := encodeImm op v ||| encodeWb wb
    w &&& 0xFEFF00FF = BitVec.ofNat 32 op ∧ imm8Of w = v ∧ wbOf w = wb := by
  decide +kernel

/-- The fields of `OP | (i << 8) | (kw << 16)` (R82, R83, R90). -/
theorem encodeZbit_fields : ∀ kw, kw < 8 → ∀ v, v < 256 →
    let w := encodeImm 0x0B v ||| (BitVec.ofNat 32 kw <<< 16)
    w &&& 0xFFF800FF = 0x0000000B ∧ imm8Of w = v ∧ kwOf w = kw := by
  decide +kernel

end Sys2Proof
end

