-- ==== Sys2Proof/Laws/Engine.lean ====
section
/-! SUPPORT. What a step can do, said once: a reset, or a completion and then a transfer. -/

namespace Sys2Proof.Machine

/-- The completion step answers a next state with BUSY = 0 and DONE = 1 (R104). -/
theorem completePending_next (s : State) : ∃ t, completePending s = .next t ∧
    ((decode s.pending = .error .nonzeroUnusedBits ∨ decode s.pending = .error .reservedOp) ∧
        t = commandErrorState .illegalCmd s ∨
      ∃ i, decode s.pending = .ok i ∧ exec i s = .next t ∧ CommandEffect i s t) := by
  unfold completePending
  split
  · next i h =>
    obtain ⟨t, ht, he⟩ := exec_effect i s
    exact ⟨t, ht, .inr ⟨i, h, ht, he⟩⟩
  · next e h =>
    refine ⟨_, rfl, .inl ⟨?_, rfl⟩⟩
    cases e <;> simp [h]

/-- The engine's part of a cycle (R102). -/
theorem enginePhase_cases (c : Cycle) (s : State) :
    (c.engine = true ∧ s.busy = true ∧ enginePhase c s = completePending s) ∨
    ((c.engine = false ∨ s.busy = false) ∧ enginePhase c s = .next s) := by
  cases h : c.engine <;> cases h' : s.busy <;> simp [enginePhase, h, h']

theorem enginePhase_next (c : Cycle) (s : State) : ∃ t, enginePhase c s = .next t := by
  rcases enginePhase_cases c s with ⟨-, -, h⟩ | ⟨-, h⟩
  · obtain ⟨t, ht, -⟩ := completePending_next s
    exact ⟨t, h.trans ht⟩
  · exact ⟨s, h⟩

/-- With BUSY = 1 the engine's part of a cycle in which it acts completes the pending command (R104). -/
theorem enginePhase_busy {c : Cycle} {s : State} (hc : c.engine = true) (hb : s.busy = true) :
    ∃ u, enginePhase c s = .next u ∧ u.busy = false ∧ u.done = true ∧ u.pending = s.pending := by
  obtain ⟨t, ht, h⟩ := completePending_next s
  refine ⟨t, by simp [enginePhase, hc, hb, ht], ?_⟩
  rcases h with ⟨-, rfl⟩ | ⟨i, -, -, he⟩
  · exact ⟨rfl, rfl, rfl⟩
  · exact ⟨he.flags.1, he.flags.2, by cases he <;> rfl⟩

/-- The engine does not touch the cycles to come. -/
theorem enginePhase_script {c : Cycle} {s u : State} (h : enginePhase c s = .next u) :
    u.script = s.script := by
  rcases enginePhase_cases c s with ⟨-, -, h'⟩ | ⟨-, h'⟩
  · obtain ⟨t, ht, he⟩ := completePending_next s
    rw [h', ht] at h
    injection h with h
    subst h
    rcases he with ⟨-, rfl⟩ | ⟨i, -, -, he⟩
    · rfl
    · cases he <;> rfl
  · rw [h'] at h
    injection h with h
    rw [← h]

/-- A transfer does not touch the cycles to come. -/
theorem busPhase_script (c : Cycle) (s : State) : (busPhase c s).script = s.script := by
  rcases busPhase_cases c s with ⟨-, h⟩ | ⟨-, -, h⟩ | ⟨-, -, h⟩ <;> rw [h]
  · rcases busWrite_cases c.addr c.wdata s with ⟨e, -, h⟩ | ⟨h, -, h'⟩
    · rw [h]
      rfl
    · rw [h']
      have he := storeReg_effect h c.wdata s
      generalize storeReg (regAt c.addr) c.wdata s = t at he
      generalize regAt c.addr = r at he
      cases he <;> rfl
  · obtain ⟨v, d, h⟩ := busRead_frame c.addr s
    rw [h]

@[simp] theorem mapNext_next (f : State → State) (s : State) : mapNext f (.next s) = .next (f s) := rfl

/-- What a step that answers `t` did (R225, R260). -/
theorem step_cases {s t : State} (h : step s = .next t) :
    ((nextCycle s).rstN = false ∧ t = resetPhase (nextCycle s) (beginCycle s)) ∨
    ((nextCycle s).rstN = true ∧ ∃ u, enginePhase (nextCycle s) (beginCycle s) = .next u ∧
      t = busPhase (nextCycle s) u) := by
  unfold step clockEdge at h
  split at h
  · next hr =>
    obtain ⟨u, hu⟩ := enginePhase_next (nextCycle s) (beginCycle s)
    rw [hu, mapNext_next] at h
    injection h with h
    exact .inr ⟨hr, u, hu, h.symm⟩
  · next hr =>
    injection h with h
    exact .inl ⟨by simpa using hr, h.symm⟩

/-- A step takes its cycle off the script. -/
theorem step_script {s t : State} (h : step s = .next t) : t.script = s.script.tail := by
  rcases step_cases h with ⟨-, rfl⟩ | ⟨-, u, hu, rfl⟩
  · rfl
  · rw [busPhase_script, enginePhase_script hu]
    rfl

theorem step_engineTurn {s : State} {rest : List Cycle} (h : s.script = Cycle.engineTurn :: rest) :
    step s = enginePhase Cycle.engineTurn { s with script := rest, rdata := none } := by
  have h1 : nextCycle s = Cycle.engineTurn := by simp [nextCycle, h]
  have h2 : beginCycle s = { s with script := rest, rdata := none } := by simp [beginCycle, h]
  obtain ⟨u, hu⟩ := enginePhase_next Cycle.engineTurn { s with script := rest, rdata := none }
  rw [step, h1, h2, clockEdge, if_pos (show Cycle.engineTurn.rstN = true from rfl), hu]
  rfl

end Sys2Proof.Machine
end

