-- ==== Sys2Proof/Laws/PerInstr.lean ====
section
/-! SUPPORT. Per command: decoding its word gives it back (R86, R90). -/

namespace Sys2Proof.Laws.RoundTrip

/-- A well-formed command is what its word decodes to. -/
def Statement (i : Instr) : Prop := i.wellFormed = true → decode (encode i) = .ok i

theorem fitsImm8_iff {v : Nat} : fitsImm8 v = true ↔ v < 256 := by simp [fitsImm8]

theorem fitsKw_iff {v : Nat} : fitsKw v = true ↔ v < 8 := by simp [fitsKw]

/-- The commands whose only field is IMM8: their row matches, and the field reads back. -/
theorem immRow {op : Nat} {f : Nat → Instr} (hop : op < 12)
    (hr : (⟨BitVec.ofNat 32 op, 0xFFFF00FF, fun w => f (imm8Of w)⟩ : OpcodeRow) ∈ opcodeRows)
    {v : Nat} (hv : fitsImm8 v = true) : decode (encodeImm op v) = .ok (f v) := by
  obtain ⟨h1, h2⟩ := encodeImm_fields op hop v (fitsImm8_iff.mp hv)
  rw [decode_of_match hr h1]
  simp only [h2]

/-- ENCRYPT and DECRYPT: their row matches, and both fields read back. -/
theorem blockRow {op : Nat} {f : Nat → Bool → Instr} (hop : op < 4)
    (hr : (⟨BitVec.ofNat 32 op, 0xFEFF00FF, fun w => f (imm8Of w) (wbOf w)⟩ : OpcodeRow) ∈ opcodeRows)
    {v : Nat} (hv : fitsImm8 v = true) (wb : Bool) :
    decode (encodeImm op v ||| encodeWb wb) = .ok (f v wb) := by
  obtain ⟨h1, h2, h3⟩ := encodeBlock_fields op hop v (fitsImm8_iff.mp hv) wb
  rw [decode_of_match hr h1]
  simp only [h2, h3]

theorem nop : Statement .nop := fun _ => by decide

theorem loadKey (len : Nat) : Statement (.loadKey len) := immRow (by decide) (by simp [opcodeRows])

theorem encrypt (len : Nat) (wb : Bool) : Statement (.encrypt len wb) := fun h =>
  blockRow (by decide) (by simp [opcodeRows]) h wb

theorem decrypt (len : Nat) (wb : Bool) : Statement (.decrypt len wb) := fun h =>
  blockRow (by decide) (by simp [opcodeRows]) h wb

theorem clearKey : Statement .clearKey := fun _ => by decide

theorem rkRead (i : Nat) : Statement (.rkRead i) := immRow (by decide) (by simp [opcodeRows])

theorem roundEnc (i : Nat) : Statement (.roundEnc i) := immRow (by decide) (by simp [opcodeRows])

theorem roundDec (i : Nat) : Statement (.roundDec i) := immRow (by decide) (by simp [opcodeRows])

theorem rotl (s : Nat) : Statement (.rotl s) := immRow (by decide) (by simp [opcodeRows])

theorem rotr (s : Nat) : Statement (.rotr s) := immRow (by decide) (by simp [opcodeRows])

theorem scramble : Statement .scramble := fun _ => by decide

theorem zbit (i kw : Nat) : Statement (.zbit i kw) := fun h => by
  have h' : fitsImm8 i = true ∧ fitsKw kw = true := by simpa [Instr.wellFormed] using h
  obtain ⟨h1, h2, h3⟩ := encodeZbit_fields kw (fitsKw_iff.mp h'.2) i (fitsImm8_iff.mp h'.1)
  rw [encode, decode_of_match (r := ⟨0x0000000B, 0xFFF800FF, _⟩) (by simp [opcodeRows]; rfl) h1]
  simp [h2, h3]

end Sys2Proof.Laws.RoundTrip
end

