-- ==== Sys2Proof/Tests/Slice0.lean ====
section
/-! SUPPORT. Tests, each on one step or one word, with the place in spec/ its expected value comes from;
and for every statement with hypotheses a witness that meets them. Where the comment names a section,
it is a section of spec/95_test_vectors.md. -/

namespace Sys2Proof.Tests

open Sys2Proof Sys2Proof.Machine

-- One theorem after the other: many at once ask for more threads than the check's memory limit gives.
set_option Elab.async false

/-! ### WellFormed refuses an operand that does not fit its field (R90) -/

theorem test_wf_loadKey : (Instr.loadKey 256).wellFormed = false := by decide
theorem test_wf_encrypt : (Instr.encrypt 256 true).wellFormed = false := by decide
theorem test_wf_decrypt : (Instr.decrypt 256 false).wellFormed = false := by decide
theorem test_wf_rkRead : (Instr.rkRead 256).wellFormed = false := by decide
theorem test_wf_roundEnc : (Instr.roundEnc 256).wellFormed = false := by decide
theorem test_wf_roundDec : (Instr.roundDec 256).wellFormed = false := by decide
theorem test_wf_rotl : (Instr.rotl 256).wellFormed = false := by decide
theorem test_wf_rotr : (Instr.rotr 256).wellFormed = false := by decide
theorem test_wf_zbit_index : (Instr.zbit 256 3).wellFormed = false := by decide
theorem test_wf_zbit_kw : (Instr.zbit 0 8).wellFormed = false := by decide
theorem test_wf_largest : (Instr.zbit 255 7).wellFormed = true := by decide

/-! ### Decoding: one word per command, its bits written out from R80 and R86 -/

theorem test_decode_nop : decode 0b0000000_0_00000_000_00000000_00000000 = .ok .nop := by decide
theorem test_decode_loadKey :
    decode 0b0000000_0_00000_000_00001100_00000001 = .ok (.loadKey 12) := by decide
theorem test_decode_encrypt :
    decode 0b0000000_1_00000_000_00000110_00000010 = .ok (.encrypt 6 true) := by decide
theorem test_decode_decrypt :
    decode 0b0000000_0_00000_000_10000001_00000011 = .ok (.decrypt 129 false) := by decide
theorem test_decode_clearKey : decode 0b0000000_0_00000_000_00000000_00000100 = .ok .clearKey := by
  decide
theorem test_decode_rkRead : decode 0b0000000_0_00000_000_00100011_00000101 = .ok (.rkRead 35) := by
  decide
theorem test_decode_roundEnc :
    decode 0b0000000_0_00000_000_00100011_00000110 = .ok (.roundEnc 35) := by decide
theorem test_decode_roundDec :
    decode 0b0000000_0_00000_000_00000001_00000111 = .ok (.roundDec 1) := by decide
theorem test_decode_rotl : decode 0b0000000_0_00000_000_00010111_00001000 = .ok (.rotl 23) := by decide
theorem test_decode_rotr : decode 0b0000000_0_00000_000_00101111_00001001 = .ok (.rotr 47) := by decide
theorem test_decode_scramble : decode 0b0000000_0_00000_000_00000000_00001010 = .ok .scramble := by
  decide
theorem test_decode_zbit :
    decode 0b0000000_0_00000_110_11111110_00001011 = .ok (.zbit 254 6) := by decide

/-- Illegal words of 2.5. -/
theorem test_decode_illegal :
    decode 0x00000100 = .error .nonzeroUnusedBits ∧ decode 0x0000000C = .error .reservedOp ∧
    decode 0xFFFFFFFF = .error .reservedOp ∧ decode 0x01000108 = .error .nonzeroUnusedBits ∧
    decode 0x0001000A = .error .nonzeroUnusedBits ∧ decode 0x00080901 = .error .nonzeroUnusedBits ∧
    decode 0x80000602 = .error .nonzeroUnusedBits := by decide

/-! ### Helpers -/

/-- The state an outcome answers with. -/
def outOf : Host.Outcome State Fault Refusal → State
  | .next s => s
  | .fault r => nomatch r
  | .refused _ => State.reset

theorem exec_outOf (i : Instr) (s : State) : exec i s = .next (outOf (exec i s)) := by
  obtain ⟨t, h, -⟩ := exec_effect i s
  rw [h]
  rfl

/-- The state after a command. -/
def ran (i : Instr) (s : State) : State := outOf (exec i s)

/-- The state after a step. -/
def stepped (s : State) : State := outOf (step s)

/-- A state whose script is used up. -/
def reset48 : State := State.resetOf .default48

/-- KEY registers with these values, the rest 0. -/
def withKey (k0 k1 k2 : Reg32) (s : State) : State :=
  { s with key := #v[k0, k1, k2, 0, 0, 0, 0, 0] }

/-- A 24-bit core with the Simon48/72 key of 1.3.2 loaded, then DONE cleared. -/
def keyed24 : State :=
  { ran (.loadKey 9) (withKey 0x08020100 0x11100A09 0x00000012 State.reset) with done := false }

/-- A 48-bit core with the Simon96/96 key of 1.3.2 loaded. -/
def keyed48 : State := ran (.loadKey 12) (withKey 0x03020100 0x09080504 0x0D0C0B0A reset48)

/-- `keyed24` with the published plaintext of 1.3.2 in DIN. -/
def block24 : State := { keyed24 with din := #v[0x6C612067, 0x00006E69, 0, 0] }

/-- `keyed24` with operands in ARG0 and ARG1. -/
def args24 (x y : Word) : State := { keyed24 with arg0 := x, arg1 := y }

/-- A reset 24-bit core with an operand in ARG0. -/
def arg24 (x : Word) : State := { State.reset with arg0 := x }

/-- A state with a command pending and these cycles to come. -/
def pendingIn (s : State) (w : Reg32) (cs : List Cycle) : State :=
  { s with busy := true, pending := w, script := cs }

/-! ### Commands: values of the vectors -/

/-- 2.5, NOP. -/
theorem test_nop : statusWord (ran .nop State.reset) = 0x00000004 := by decide +kernel

/-- R106: a NOP with ERR = 1 leaves the recorded error. -/
theorem test_nop_keeps_error :
    statusWord (ran .nop { State.reset with err := true, errCode := .access }) = 0x0000070C := by
  decide +kernel

/-- 2.3.4 and 2.3.2, LOAD_KEY 9: CFG, RK[3], RK[35], the key bytes. -/
theorem test_loadKey :
    keyed24.cfg = 0x00240318 ∧ rkAt keyed24.rk 3 = 0xFE9DCE ∧ rkAt keyed24.rk 35 = 0x5AFDFE ∧
    keyed24.key = Vector.replicate 8 0 ∧ keyed24.rk.length = 36 := by decide +kernel

/-- 2.3.4, LOAD_KEY 10 while keyed: CONFIG, and the key is gone. -/
theorem test_loadKey_bad :
    statusWord (ran (.loadKey 10) keyed24) = 0x0000020C ∧ (ran (.loadKey 10) keyed24).cfg = 0 ∧
    rkAt (ran (.loadKey 10) keyed24).rk 0 = 0 := by decide +kernel

/-- 2.3.4, CLEAR_KEY while keyed. -/
theorem test_clearKey :
    statusWord (ran .clearKey keyed24) = 0x00000004 ∧ (ran .clearKey keyed24).cfg = 0 ∧
    rkAt (ran .clearKey keyed24).rk 3 = 0 := by decide +kernel

/-- 2.3.4, RK_READ 51, the last index, on the 48-bit core. -/
theorem test_rkRead : (ran (.rkRead 51) keyed48).res0 = 0x10244F6EC759 := by decide +kernel

/-- 2.3.4, RK_READ 52: the bound is CFG.ROUNDS, not RK_DEPTH. -/
theorem test_rkRead_bound : statusWord (ran (.rkRead 52) keyed48) = 0x0000050E := by decide +kernel

/-- 2.4.3, ROUND_ENC 0. -/
theorem test_roundEnc :
    (ran (.roundEnc 0) (args24 0x612067 0x6E696C)).res0 = 0xE8A9B1 ∧
    (ran (.roundEnc 0) (args24 0x612067 0x6E696C)).res1 = 0x612067 := by decide +kernel

/-- 2.4.3, ROUND_ENC with ARG1 = 2^24. -/
theorem test_roundEnc_operand :
    statusWord (ran (.roundEnc 0) (args24 0 0x1000000)) = 0x0000050E := by decide +kernel

/-- 2.4.3, ROUND_DEC 0. -/
theorem test_roundDec :
    (ran (.roundDec 0) (args24 0xE8A9B1 0x612067)).res0 = 0x612067 ∧
    (ran (.roundDec 0) (args24 0xE8A9B1 0x612067)).res1 = 0x6E696C := by decide +kernel

/-- 2.4.3, ROUND_DEC without a key. -/
theorem test_roundDec_noKey : statusWord (ran (.roundDec 0) State.reset) = 0x0000030C := by
  decide +kernel

/-- 2.2.2: a 24-bit rotation wraps at bit 23. -/
theorem test_rotl : (ran (.rotl 1) (arg24 0x800000)).res0 = 0x000001 := by decide +kernel

/-- 2.2.3, ROTL 24. -/
theorem test_rotl_bound : statusWord (ran (.rotl 24) (arg24 1)) = 0x0000050C := by decide +kernel

/-- 2.2.2. -/
theorem test_rotr : (ran (.rotr 3) (arg24 0x123456)).res0 = 0xC2468A := by decide +kernel

/-- 2.2.3, ROTR 1 with ARG0 = 2^24. -/
theorem test_rotr_operand : statusWord (ran (.rotr 1) (arg24 0x1000000)) = 0x0000050C := by
  decide +kernel

/-- 2.4.1. -/
theorem test_scramble : (ran .scramble (arg24 0xABCDEF)).res0 = 0xEABC35 := by decide +kernel

/-- 2.4.3, SCRAMBLE with ARG0_HI = 1. -/
theorem test_scramble_operand : statusWord (ran .scramble (arg24 0x100000000)) = 0x0000050C := by
  decide +kernel

/-- 2.1, ZBIT 61, 2 on the 48-bit core. -/
theorem test_zbit : (ran (.zbit 61 2) reset48).res0 = 1 ∧ (ran (.zbit 61 2) reset48).res1 = 2 := by
  decide +kernel

/-- 2.1, ZBIT 0, 2 on the 24-bit core. -/
theorem test_zbit_bad : statusWord (ran (.zbit 0 2) State.reset) = 0x0000020C := by decide +kernel

/-- 2.6.2, ENCRYPT 6 of the published plaintext. -/
theorem test_encrypt : (ran (.encrypt 6 false) block24).dout = #v[0xACDAE5AC, 0x0000292C, 0, 0] := by
  decide +kernel

/-- 2.6.2: write-back leaves the DIN bytes above the block. -/
theorem test_encrypt_writeBack :
    (ran (.encrypt 6 true) { block24 with din := #v[0x6C612067, 0xFFFF6E69, 0, 0] }).din =
      #v[0xACDAE5AC, 0xFFFF292C, 0, 0] := by decide +kernel

/-- 2.6.2, DECRYPT 6 of the published ciphertext. -/
theorem test_decrypt :
    (ran (.decrypt 6 false) { keyed24 with din := #v[0xACDAE5AC, 0x0000292C, 0, 0] }).dout =
      #v[0x6C612067, 0x00006E69, 0, 0] := by decide +kernel

/-- 2.6.2, DECRYPT 12 on the 24-bit core. -/
theorem test_decrypt_size : statusWord (ran (.decrypt 12 false) block24) = 0x0000040E := by
  decide +kernel

/-! ### Steps, errors, interrupt, reset -/

/-- 2.7: a write to DOUT while BUSY is ACCESS, and the first error stays when DIN1 is written. -/
theorem test_busy_writes :
    let s := busWrite 0x50 1 { block24 with busy := true }
    statusWord s = 0x0000070B ∧ s.errInfo = 0x50 ∧
    statusWord (busWrite 0x44 0 s) = 0x0000070B ∧ (busWrite 0x44 0 s).errInfo = 0x50 ∧
    (busWrite 0x44 0 s).din = s.din := by decide +kernel

/-- 2.7: `addr[1:0]` is ignored. -/
theorem test_low_address_bits :
    (busWrite 0x1E 1 State.reset).errInfo = 0x1C ∧
    (busRead 0x41 (busWrite 0x43 0xA1B2C3D4 State.reset)).rdata = some 0xA1B2C3D4 := by decide +kernel

/-- 2.7, the interrupt at a NOP's completion, and its clearing. -/
theorem test_irq :
    irq (ran .nop (busWrite 0x14 0 (busWrite 0x0C 1 State.reset))) = true ∧
    irq (busWrite 0x10 4 (ran .nop (busWrite 0x14 0 (busWrite 0x0C 1 State.reset)))) = false := by
  decide +kernel

/-- 2.8: a soft reset discards the pending command. -/
theorem test_softReset :
    busWrite 0x0C 0x80000003 (pendingIn { block24 with doneIE := true } 0x602 []) = State.reset := by
  decide +kernel

/-- P4: a reserved OP completes with ILLEGAL_CMD. -/
theorem test_step_illegal :
    statusWord (stepped (State.reset.withFetchWord 32 0x0000000C)) = 0x0000010C ∧
    (stepped (State.reset.withFetchWord 32 0x0000000C)).errInfo = 0x0000000C := by decide +kernel

/-- P5, both outcomes: the second write lands while the NOP is pending, or in the cycle in which it
completes (R225). -/
theorem test_race :
    statusWord (stepped (pendingIn State.reset 0 [Cycle.busWrite 0x14 4])) = 0x00000609 ∧
    statusWord (stepped (pendingIn State.reset 0 [{ Cycle.busWrite 0x14 4 with engine := true }])) =
      0x00000001 := by decide +kernel

/-- R260: in a reset cycle a read returns 0, of ID as well. -/
theorem test_reset_read :
    (stepped { block24 with script := [{ Cycle.busRead 0x00 with rstN := false }] }).rdata = some 0 := by
  decide +kernel

/-- R90: `setkey` of the nine key bytes of 1.3.3 writes the KEY values of 1.3.2. -/
theorem test_setKey :
    setKey [0x00, 0x01, 0x02, 0x08, 0x09, 0x0A, 0x10, 0x11, 0x12] =
      [Cycle.busWrite 0x20 0x08020100, Cycle.busWrite 0x24 0x11100A09, Cycle.busWrite 0x28 0x12] := by
  decide +kernel

/-- R90: the assembler refuses an operand that does not fit. -/
theorem test_assemble :
    assemble (.rotl 256) = none ∧ assemble (.zbit 3 3) = some (Cycle.busWrite 0x14 0x0003030B) := by
  decide +kernel

/-- R8, U16: no default build has 32-bit words. -/
theorem test_builds : paramsOf 32 false = none ∧ paramsOf 32 true = some .ext32 := by decide

/-! ### Witnesses: a state and operands that meet the hypotheses of each statement, clause by clause -/

/-- A 24-bit core keyed with a sequence of zeros: a small state to step from. -/
def keyed0 : State := { State.reset with keyValid := true, cfg := 0x00240318 }

/-- `keyed0` with the published plaintext of 1.3.2 in DIN. -/
def block0 : State := { keyed0 with din := #v[0x6C612067, 0x00006E69, 0, 0] }

/-- `keyed0` with operands in ARG0 and ARG1. -/
def args0 (x y : Word) : State := { keyed0 with arg0 := x, arg1 := y }

/-- The invariant is met by a keyed state, so the statements that assume it say something. -/
theorem witness_invariant : CoreInv keyed0 where
  rkMasked := by decide +kernel
  resMasked := by decide +kernel
  rkLength := by decide +kernel
  doutHigh := by decide +kernel
  unkeyed := by decide +kernel
  keyed := fun _ => by
    refine ⟨⟨24, 3, 36, 0, false⟩, by decide +kernel, by decide +kernel, fun i hi => ?_⟩
    have hl : keyed0.rk.length = 36 := by decide +kernel
    rw [rkAt, List.getD_eq_getElem?_getD, List.getElem?_eq_none (by rw [hl]; exact hi)]
    rfl
  noError := by decide +kernel
  someError := by decide +kernel
  busyNotDone := by decide +kernel

theorem witness_DecodeOfEncode : (Instr.zbit 255 7).wellFormed = true := by decide

theorem witness_EncodeOfDecode : decode 0x01000C02 = .ok (.encrypt 12 true) := by decide

/-- Each row at the largest value of its fields. -/
theorem witness_RowWordsDecode :
    (0x00000000 : Reg32) &&& 0xFFFFFFFF = 0x00000000 ∧ (0x0000FF01 : Reg32) &&& 0xFFFF00FF = 0x01 ∧
    (0x0100FF02 : Reg32) &&& 0xFEFF00FF = 0x02 ∧ (0x0100FF03 : Reg32) &&& 0xFEFF00FF = 0x03 ∧
    (0x00000004 : Reg32) &&& 0xFFFFFFFF = 0x04 ∧ (0x0000FF05 : Reg32) &&& 0xFFFF00FF = 0x05 ∧
    (0x0000FF06 : Reg32) &&& 0xFFFF00FF = 0x06 ∧ (0x0000FF07 : Reg32) &&& 0xFFFF00FF = 0x07 ∧
    (0x0000FF08 : Reg32) &&& 0xFFFF00FF = 0x08 ∧ (0x0000FF09 : Reg32) &&& 0xFFFF00FF = 0x09 ∧
    (0x0000000A : Reg32) &&& 0xFFFFFFFF = 0x0A ∧ (0x0007FF0B : Reg32) &&& 0xFFF800FF = 0x0B ∧
    (∃ r ∈ opcodeRows, (0x0007FF0B : Reg32) &&& r.mask = r.mtch) ∧
    decode 0x0007FF0B = .ok (.zbit 255 7) := by
  refine ⟨by decide, by decide, by decide, by decide, by decide, by decide, by decide, by decide,
    by decide, by decide, by decide, by decide, ?_, by decide⟩
  exact ⟨⟨0x0000000B, 0xFFF800FF, _⟩, by simp [opcodeRows]; rfl, by decide⟩

theorem witness_ReservedOpsAreIllegal :
    0x0C ≤ (0x0000000C : Reg32).toNat % 256 ∧ 0x0C ≤ (0x000000FF : Reg32).toNat % 256 ∧
    (pendingIn State.reset 0x0C []).pending = 0x0000000C := by decide

/-- A cycle in which a CMD write arrives and the pending command completes. -/
def racing : Cycle := { Cycle.busWrite 0x14 0x0000000A with engine := true }

theorem witness_StepRunsDecodedCommand :
    (let s := pendingIn keyed0 0x00002305 [racing]
     s.busy = true ∧ decode s.pending = .ok (.rkRead 35) ∧ (nextCycle s).rstN = true ∧
     (nextCycle s).engine = true) ∧
    (let s := pendingIn keyed0 0x00000602 []
     s.busy = true ∧ decode s.pending = .ok (.encrypt 6 false) ∧ s.script = []) ∧
    decode (BitVec.ofNat 32 0x0004FF0B) = .ok (.zbit 255 4) := by decide +kernel

theorem witness_IllegalWordReports :
    (let s := pendingIn keyed0 0x01000108 [Cycle.engineTurn]
     s.busy = true ∧ (∀ r ∈ opcodeRows, s.pending &&& r.mask ≠ r.mtch) ∧
     s.script = Cycle.engineTurn :: []) ∧
    (0x80000602 : Reg32) &&& 0xFEF80000 ≠ 0 ∧ (0x00080901 : Reg32) &&& 0xFEF80000 ≠ 0 := by
  decide +kernel

theorem witness_CompletionBeforeTransfer :
    (let s := pendingIn keyed0 0 [racing]
     s.busy = true ∧ racing.rstN = true ∧ racing.engine = true ∧ s.script = racing :: []) ∧
    (let s := pendingIn keyed0 0 [⟨true, true, true, 0x17, 4, true⟩]
     s.busy = true ∧ (0x17 : Offset) &&& 0xFC = 0x14 ∧
     s.script = ⟨true, true, true, 0x17, 4, true⟩ :: []) ∧
    (let s := pendingIn keyed0 0 [⟨true, true, false, 0x13, 0, true⟩]
     s.busy = true ∧ (0x13 : Offset) &&& 0xFC = 0x10 ∧
     s.script = ⟨true, true, false, 0x13, 0, true⟩ :: []) := by decide +kernel

theorem witness_CompleteEnabledByBusy :
    racing.rstN = true ∧ racing.engine = true ∧
    (pendingIn keyed0 0 [racing]).script = racing :: [] ∧ (pendingIn keyed0 0 [racing]).busy = true ∧
    { keyed0 with script := [racing] }.script = racing :: [] ∧
    { keyed0 with script := [racing] }.busy = false := by decide +kernel

/-- A transfer-free cycle, and a STATUS write that clears DONE, while a command stays pending. -/
theorem witness_PendingCommandKeepsItsInputs :
    (let s := pendingIn keyed0 0x602 [Cycle.idle]
     s.busy = true ∧ (nextCycle s).engine = false ∧ resetsInCycle (nextCycle s) = false ∧
     step s = .next (stepped s)) ∧
    (let s := pendingIn { keyed0 with done := true } 0x602 [Cycle.busWrite 0x10 4]
     s.busy = true ∧ (nextCycle s).engine = false ∧ resetsInCycle (nextCycle s) = false ∧
     step s = .next (stepped s) ∧ s.done = true ∧ (stepped s).done = false) :=
  ⟨⟨rfl, rfl, rfl, rfl⟩, rfl, rfl, rfl, rfl, rfl, rfl⟩

theorem witness_StepKeepsInvariant :
    CoreInv { keyed0 with script := [Cycle.idle] } ∧
    step { keyed0 with script := [Cycle.idle] } = .next { keyed0 with script := [], rdata := none } :=
  ⟨⟨witness_invariant.rkMasked, witness_invariant.resMasked, witness_invariant.rkLength,
    witness_invariant.doutHigh, witness_invariant.unkeyed, witness_invariant.keyed,
    witness_invariant.noError, witness_invariant.someError, witness_invariant.busyNotDone⟩, rfl⟩

theorem witness_HardwareReset :
    (let c : Cycle := ⟨false, true, false, 0x00, 0, true⟩
     (pendingIn keyed0 0x602 [c]).script = c :: [] ∧ c.rstN = false ∧ c.sel = true ∧ c.write = false) ∧
    (let c : Cycle := ⟨false, true, true, 0x0C, 3, false⟩
     (pendingIn keyed0 0x602 [c]).script = c :: [] ∧ c.rstN = false ∧ c.write = true) := by
  decide +kernel

theorem witness_SoftReset :
    (0x0F : Offset) &&& 0xFC = 0x0C ∧ (0x80000003 : Reg32).getLsbD 31 = true ∧
    (pendingIn keyed0 0x602 [Cycle.engineTurn]).script = Cycle.engineTurn :: [] ∧
    racing.rstN = true ∧ (pendingIn keyed0 0x602 [racing]).script = racing :: [] ∧
    (0x17 : Offset) &&& 0xFC = 0x14 ∧
    (pendingIn keyed0 0x602 [Cycle.busWrite 0x17 4]).script = Cycle.busWrite 0x17 4 :: [] := by
  decide +kernel

theorem witness_IssueCommand :
    { keyed0 with err := true, done := true }.busy = false ∧ (0x14 : Offset) &&& 0xFC = 0x14 ∧
    (0x17 : Offset) &&& 0xFC = 0x14 := by decide +kernel

/-- Both ends of every range of offsets, and no offset in two classes. -/
theorem witness_ErroringWriteOnlyReports :
    State.reset.err = false ∧ { State.reset with err := true }.err = true ∧
    (∀ off ∈ [0x00, 0x07, 0x08, 0x0B, 0x18, 0x1F, 0x50, 0x5F, 0x70, 0x7F, 0x80, 0xFF],
      readOnlyOffset off) ∧
    (∀ off ∈ [0x14, 0x17, 0x20, 0x4F, 0x60, 0x6F], lockedOffset off) ∧
    (∀ off : Offset, ¬ (readOnlyOffset off ∧ lockedOffset off)) ∧
    (pendingIn keyed0 0x602 []).busy = true := by
  unfold readOnlyOffset lockedOffset
  decide +kernel

theorem witness_ControlRegister :
    (0x0C : Offset) &&& 0xFC = 0x0C ∧ (0x0F : Offset) &&& 0xFC = 0x0C ∧
    (0x7FFFFFFF : Reg32).getLsbD 31 = false ∧ (0x80000000 : Reg32).getLsbD 31 = true ∧
    (let s := { State.reset with doneIE := true, errIE := true, done := true, err := true }
     s.doneIE = true ∧ s.done = true ∧ s.errIE = true ∧ s.err = true) := by decide

theorem witness_StatusLayout :
    (0x10 : Offset) &&& 0xFC = 0x10 ∧ (0x13 : Offset) &&& 0xFC = 0x10 := by decide

theorem witness_StatusWriteClears :
    (0x10 : Offset) &&& 0xFC = 0x10 ∧ (0x13 : Offset) &&& 0xFC = 0x10 ∧
    (0x00000008 : Reg32).getLsbD 3 = true ∧ (0xFFFFFFF7 : Reg32).getLsbD 3 = false := by decide

theorem witness_IdentificationRegisters :
    wordBits State.reset.params = 24 ∧ wordBits reset48.params = 48 ∧
    wordBits (State.resetOf .ext16).params = 16 ∧ wordBits (State.resetOf .ext32).params = 32 ∧
    wordBits (State.resetOf .ext64).params = 64 := by decide

theorem witness_RegisterMapReads :
    State.reset.busy = false ∧
    (∀ o ∈ [0x14, 0x17, 0x20, 0x3F, 0x80, 0xFF], ((o : Offset) &&& 0xFC).toNat = 0x14 ∨
      (0x20 ≤ (o &&& 0xFC).toNat ∧ (o &&& 0xFC).toNat ≤ 0x3C) ∨ 0x80 ≤ (o &&& 0xFC).toNat) := by
  decide +kernel

theorem witness_ReadsChangeNoRegister :
    ¬ ((pendingIn keyed0 0x602 []).busy = true ∧ resultOffset 0x44) ∧
    ¬ (keyed0.busy = true ∧ resultOffset 0x50) := by
  unfold resultOffset
  decide +kernel

theorem witness_ResultReadsWhileBusyAreDraws :
    (pendingIn keyed0 0x602 []).busy = true ∧
    ∀ off ∈ [0x18, 0x1B, 0x50, 0x5F, 0x70, 0x7F], resultOffset off := by
  unfold resultOffset
  decide +kernel

theorem witness_DataRegistersReadBack :
    State.reset.busy = false ∧
    (∀ o ∈ [0x40, 0x4F, 0x60, 0x6F],
      (0x40 ≤ ((o : Offset) &&& 0xFC).toNat ∧ (o &&& 0xFC).toNat ≤ 0x4C) ∨
      (0x60 ≤ (o &&& 0xFC).toNat ∧ (o &&& 0xFC).toNat ≤ 0x6C)) ∧
    (0x64 : Offset) &&& 0xFC ≠ (0x60 : Offset) &&& 0xFC ∧
    (0x43 : Offset) &&& 0xFC = BitVec.ofNat 8 (0x40 + 4 * (0 : Fin 4)) ∧
    (0x4C : Offset) &&& 0xFC = BitVec.ofNat 8 (0x40 + 4 * (3 : Fin 4)) ∧
    (0x63 : Offset) &&& 0xFC = 0x60 ∧ (0x64 : Offset) &&& 0xFC = 0x64 ∧
    (0x6B : Offset) &&& 0xFC = 0x68 ∧ (0x6F : Offset) &&& 0xFC = 0x6C := by decide +kernel

theorem witness_ByteViewOfRegisters : State.reset.busy = false ∧ 3 < 4 ∧ 31 < 32 ∧ 15 < 16 := by decide

theorem witness_InterruptOutput :
    (0x00000004 : Reg32).getLsbD 2 = true ∧ (0x0000000C : Reg32).getLsbD 3 = true ∧
    (0x00000000 : Reg32).getLsbD 31 = false ∧ State.reset.busy = false := by decide

theorem witness_PlatformAddressMap :
    Config.baseAddr < Config.baseAddr ∨ Config.baseAddr + 256 ≤ Config.baseAddr + 256 :=
  .inr (Nat.le_refl _)

theorem witness_BuildsAndParameters :
    paramsOf 24 false = some .default24 ∧ paramsOf 64 true = some .ext64 := by decide

theorem witness_RotationMovesBits :
    0 < 24 ∧ 24 ≤ 64 ∧ 23 < 24 ∧ isWord 24 0xFFFFFF = true ∧
    0 < 64 ∧ 63 < 64 ∧ isWord 64 0xFFFFFFFFFFFFFFFF = true := by decide

theorem witness_CodecRoundTrip :
    ([1, 2, 3, 4, 5, 6, 7, 255] : List Byte).length = 8 ∧
    (0xFFFFFF : Word).toNat < 2 ^ (8 * 3) ∧ 0 < 24 ∧ 24 ≤ 64 ∧ 23 < 24 ∧ isWord 24 0x800001 = true := by
  decide

theorem witness_PairedRoundsAgree :
    extConfigs .default48 = false ∧ (⟨48, 3, 54, 3, false⟩ : ConfigRow) ∈ acceptedRows .default48 := by
  decide

theorem witness_KeyScheduleForms :
    3 < 4 ∧ 4 ≤ 64 ∧ isWord 4 0xF = true ∧ 3 < 64 ∧ isWord 64 0xFFFFFFFFFFFFFFFF = true := by decide

theorem witness_NopCommand : (0x00000100 : Reg32).toNat % 256 = 0 ∧ (0x00000100 : Reg32) ≠ 0 := by decide

theorem witness_ClearKeyCommand :
    (0x80000004 : Reg32).toNat % 256 = 4 ∧ (0x80000004 : Reg32) ≠ 4 := by decide

/-- An accepted row, an index at each end of its three ranges, and lengths beside the accepted ones. -/
theorem witness_LoadKeyCommand :
    (⟨24, 3, 36, 0, false⟩ : ConfigRow) ∈ acceptedRows State.reset.params ∧
    (0 < 3 ∧ 2 < 3) ∧ (3 ≤ 3 ∧ 35 < 36) ∧ 36 ≤ 36 ∧
    (∀ len ∈ [0, 8, 10, 11, 13, 255], ∀ r ∈ acceptedRows State.reset.params,
      len ≠ r.keyWords * wordBytes State.reset.params) := by decide +kernel

theorem witness_RkReadCommand :
    State.reset.keyValid = false ∧ keyed0.keyValid = true ∧ cfgRounds keyed0 ≤ 36 ∧
    35 < cfgRounds keyed0 := by decide +kernel

theorem witness_RoundEncCommand :
    State.reset.keyValid = false ∧
    (let s := args0 0x1000000 0; s.keyValid = true ∧ 2 ^ bitsOf s ≤ s.arg0.toNat) ∧
    (let s := args0 0 0x1000000; s.keyValid = true ∧ 2 ^ bitsOf s ≤ s.arg1.toNat) ∧
    (let s := args0 0 0; s.keyValid = true ∧ cfgRounds s ≤ 36) ∧
    (let s := args0 0xFFFFFF 0xFFFFFF
     s.keyValid = true ∧ 35 < cfgRounds s ∧ s.arg0.toNat < 2 ^ bitsOf s ∧
     s.arg1.toNat < 2 ^ bitsOf s) := by decide +kernel

theorem witness_RoundDecCommand :
    State.reset.keyValid = false ∧
    (let s := args0 0 0x1000000; s.keyValid = true ∧ 2 ^ bitsOf s ≤ s.arg1.toNat) ∧
    (let s := args0 0 0; s.keyValid = true ∧ cfgRounds s ≤ 36) ∧
    (let s := args0 0xFFFFFF 0xFFFFFF
     s.keyValid = true ∧ 35 < cfgRounds s ∧ s.arg0.toNat < 2 ^ bitsOf s ∧
     s.arg1.toNat < 2 ^ bitsOf s) := by decide +kernel

theorem witness_ScrambleCommand :
    2 ^ bitsOf (arg24 0x1000000) ≤ (arg24 0x1000000).arg0.toNat ∧
    (arg24 0xFFFFFF).arg0.toNat < 2 ^ bitsOf (arg24 0xFFFFFF) ∧
    isWord (wordBits .default24) 0xFFFFFF = true := by decide

theorem witness_RotateCommands :
    bitsOf (arg24 1) ≤ 24 ∧ 2 ^ bitsOf (arg24 0x1000000) ≤ (arg24 0x1000000).arg0.toNat ∧
    23 < bitsOf (arg24 0xFFFFFF) ∧ (arg24 0xFFFFFF).arg0.toNat < 2 ^ bitsOf (arg24 0xFFFFFF) := by decide

theorem witness_ZbitCommand :
    2 ∉ kwSet State.reset.params ∧ 5 ∉ kwSet State.reset.params ∧ 4 ∈ kwSet State.reset.params ∧
    ctLookup State.reset.params 4 = some (36, 1) := by decide

theorem witness_EncryptCommand :
    State.reset.keyValid = false ∧ block0.keyValid = true ∧ 5 ≠ blockBytes block0.params ∧
    6 = blockBytes block0.params := by decide +kernel

theorem witness_DecryptCommand :
    State.reset.keyValid = false ∧ block0.keyValid = true ∧ 12 ≠ blockBytes block0.params ∧
    6 = blockBytes block0.params := by decide +kernel

theorem witness_DecryptUndoesEncrypt :
    CoreInv keyed0 ∧ keyed0.keyValid = true ∧ 6 = blockBytes keyed0.params :=
  ⟨witness_invariant, by decide +kernel, by decide +kernel⟩

theorem witness_InPlaceIsSafe :
    block0.keyValid = true ∧ 6 = blockBytes block0.params ∧
    exec (.encrypt 6 true) block0 = .next (ran (.encrypt 6 true) block0) ∧
    exec (.encrypt 6 false) block0 = .next (ran (.encrypt 6 false) block0) ∧
    exec (.decrypt 6 true) block0 = .next (ran (.decrypt 6 true) block0) ∧
    exec (.decrypt 6 false) block0 = .next (ran (.decrypt 6 false) block0) :=
  ⟨by decide +kernel, by decide +kernel, exec_outOf _ _, exec_outOf _ _, exec_outOf _ _, exec_outOf _ _⟩

theorem witness_RoundCommandsChain :
    CoreInv keyed0 ∧ keyed0.keyValid = true ∧ 35 < cfgRounds keyed0 ∧
    isWord (bitsOf keyed0) 0xFFFFFF = true ∧ isWord (bitsOf keyed0) 0 = true :=
  ⟨witness_invariant, by decide +kernel, by decide +kernel, by decide +kernel, by decide +kernel⟩

/-- Two states of one build with the same nine key bytes, a different tenth, and different keys loaded. -/
theorem witness_KeyLoadIsDeterministic :
    (let s := withKey 0x08020100 0x11100A09 0x00000012 State.reset
     let s' := withKey 0x08020100 0x11100A09 0x0000FF12 keyed0
     s.params = s'.params ∧ (∀ j, j < 9 → byteAt s.key j = byteAt s'.key j) ∧
     byteAt s.key 9 ≠ byteAt s'.key 9) ∧
    (∀ s : State, exec (.loadKey 9) s = .next (ran (.loadKey 9) s)) :=
  ⟨by decide +kernel, fun s => exec_outOf _ s⟩

theorem witness_BytesAboveBlockIgnored :
    (∀ j, j < blockBytes block0.params →
      byteAt (#v[0x6C612067, 0xFFFF6E69, 1, 2] : Vector Reg32 4) j = byteAt block0.din j) ∧
    (∀ (i : Instr) (s : State), exec i s = .next (ran i s)) :=
  ⟨by decide +kernel, exec_outOf⟩

/-- Another command completes; and with a LOAD_KEY in the latch a step with BUSY = 0, one in which it
stays pending, and a reset cycle. -/
theorem witness_KeyBytesFlowOnlyThroughLoadKey :
    (let s := pendingIn keyed0 0x00000004 [Cycle.engineTurn]
     (∀ len, decode s.pending ≠ .ok (.loadKey len)) ∧ s.busy = true ∧ (nextCycle s).rstN = true ∧
     (nextCycle s).engine = true ∧
     step s = .next (finish (dropKey { s with script := [], rdata := none }))) ∧
    (let s := { keyed0 with pending := 0x00000901 }
     decode s.pending = .ok (.loadKey 9) ∧ s.busy = false ∧ step s = .next (stepped s)) ∧
    (let s := pendingIn keyed0 0x00000901 [Cycle.busRead 0x10]
     decode s.pending = .ok (.loadKey 9) ∧ (nextCycle s).engine = false ∧ step s = .next (stepped s)) ∧
    (let s := pendingIn keyed0 0x00000901 [{ Cycle.engineTurn with rstN := false }]
     decode s.pending = .ok (.loadKey 9) ∧ (nextCycle s).rstN = false ∧ step s = .next (stepped s)) := by
  refine ⟨⟨fun len h => ?_, rfl, rfl, rfl, rfl⟩, ⟨by decide, rfl, rfl⟩,
    ⟨by decide, rfl, rfl⟩, by decide, rfl, rfl⟩
  have h' : decode 0x00000004 = .ok .clearKey := by decide
  rw [show (pendingIn keyed0 0x00000004 [Cycle.engineTurn]).pending = 0x00000004 from rfl, h'] at h
  cases h

theorem witness_KeyStateChangesOnlyByKeyCommands :
    let s := pendingIn keyed0 0x00000004 [Cycle.engineTurn]
    step s = .next (finish (dropKey { s with script := [], rdata := none })) ∧
    resetsInCycle (nextCycle s) = false ∧ (finish (dropKey s)).keyValid ≠ s.keyValid :=
  ⟨rfl, rfl, by decide +kernel⟩

/-- CLEAR_KEY ends BUSY, sets DONE and clears KEYVALID; a NOP and a LOAD_KEY are issued; STATUS is
cleared; a read-only register is written; a locked one is while BUSY = 1. -/
theorem witness_FlagsChangeOnlyAsStated :
    (let s := pendingIn keyed0 0x00000004 [Cycle.engineTurn]
     step s = .next (finish (dropKey { s with script := [], rdata := none })) ∧
     resetsInCycle (nextCycle s) = false ∧ s.busy = true ∧ s.done = false ∧ s.keyValid = true) ∧
    (let s := { State.reset with done := true, script := [Cycle.busWrite 0x14 0] }
     step s = .next (stepped s) ∧ resetsInCycle (nextCycle s) = false ∧ s.busy = false ∧
     (stepped s).busy = true ∧ s.done = true ∧ (stepped s).done = false) ∧
    (let s := { State.reset with err := true, script := [Cycle.busWrite 0x10 8] }
     step s = .next (stepped s) ∧ resetsInCycle (nextCycle s) = false ∧ s.err = true ∧
     (stepped s).err = false) ∧
    (let s := { State.reset with script := [Cycle.busWrite 0x00 8] }
     step s = .next (stepped s) ∧ resetsInCycle (nextCycle s) = false ∧ s.err = false ∧
     (stepped s).err = true) ∧
    (let s := pendingIn State.reset 0 [Cycle.busWrite 0x40 8]
     step s = .next (stepped s) ∧ resetsInCycle (nextCycle s) = false ∧ s.err = false ∧
     (stepped s).err = true ∧ (nextCycle s).engine = false) :=
  ⟨⟨rfl, rfl, by decide +kernel, by decide +kernel, by decide +kernel⟩,
    ⟨rfl, rfl, rfl, rfl, rfl, rfl⟩, ⟨rfl, rfl, rfl, rfl⟩, ⟨rfl, rfl, rfl, rfl⟩,
    rfl, rfl, rfl, rfl, rfl⟩

/-- A LOAD_KEY that sets KEYVALID. -/
theorem witness_loadKey_sets_keyValid :
    let s := pendingIn (withKey 0x08020100 0x11100A09 0x00000012 State.reset) 0x00000901 []
    (stepped s).keyValid = true ∧ s.keyValid = false ∧ resetsInCycle (nextCycle s) = false := by
  decide +kernel

/-- For each clause of the frame a command that changes the register it is about. -/
theorem witness_CommandFrame :
    (∀ (i : Instr) (s : State), exec i s = .next (ran i s)) ∧
    (ran (.encrypt 6 false) block0).dout ≠ block0.dout ∧
    (ran (.encrypt 6 true) block0).din ≠ block0.din ∧
    (ran (.rkRead 35) { keyed0 with res0 := 1 }).res0 ≠ 1 ∧
    (ran (.roundEnc 0) (args0 1 0)).res1 ≠ keyed0.res1 ∧
    (ran .clearKey keyed0).keyValid ≠ keyed0.keyValid ∧ { keyed0 with err := true }.err = true ∧
    (ran .nop keyed0).err = false :=
  ⟨exec_outOf, by decide +kernel, by decide +kernel, by decide +kernel, by decide +kernel,
    by decide +kernel, by decide +kernel, by decide +kernel⟩

theorem witness_FailingCommandFrame :
    (∀ (i : Instr) (s : State), exec i s = .next (ran i s)) ∧ keyed0.err = false ∧
    (ran (.loadKey 10) keyed0).err = true ∧ (ran (.encrypt 5 false) keyed0).err = true ∧
    (ran (.decrypt 5 true) keyed0).err = true ∧ (ran (.rkRead 36) keyed0).err = true ∧
    (ran (.roundEnc 36) keyed0).err = true ∧ (ran (.roundDec 36) keyed0).err = true ∧
    (ran (.rotl 24) keyed0).err = true ∧ (ran (.rotr 24) keyed0).err = true ∧
    (ran .scramble (args0 0x1000000 0)).err = true ∧ (ran (.zbit 0 2) keyed0).err = true :=
  ⟨exec_outOf, by decide +kernel⟩

end Sys2Proof.Tests
end

section
/-! Proofs: the builds that exist and their derived parameters (spec/00_scope.md, R8 to R10). -/

namespace Sys2Proof.Machine

/-- A build is found under its own parameters: no two builds share both of them (R8, R9). -/
@[simp] theorem paramsOf_wordBits_extConfigs (p : Params) :
    paramsOf (wordBits p) (extConfigs p) = some p := by
  cases p <;> decide

theorem paramsOf_eq_some_iff {n : Nat} {ext : Bool} {p : Params} :
    paramsOf n ext = some p ↔ wordBits p = n ∧ extConfigs p = ext := by
  constructor
  · intro h
    simpa using List.find?_some h
  · rintro ⟨rfl, rfl⟩
    exact paramsOf_wordBits_extConfigs p

theorem exists_build_iff (n : Nat) (ext : Bool) :
    (∃ p, wordBits p = n ∧ extConfigs p = ext) ↔
      n = 24 ∨ n = 48 ∨ (ext = true ∧ (n = 16 ∨ n = 32 ∨ n = 64)) := by
  constructor
  · rintro ⟨p, rfl, rfl⟩
    cases p <;> decide
  · rintro (rfl | rfl | ⟨rfl, rfl | rfl | rfl⟩)
    · cases ext
      · exact ⟨.default24, rfl, rfl⟩
      · exact ⟨.ext24, rfl, rfl⟩
    · cases ext
      · exact ⟨.default48, rfl, rfl⟩
      · exact ⟨.ext48, rfl, rfl⟩
    · exact ⟨.ext16, rfl, rfl⟩
    · exact ⟨.ext32, rfl, rfl⟩
    · exact ⟨.ext64, rfl, rfl⟩

/-- The parameters of each build are a row of the table of R10. -/
theorem derivedParameters_mem_table (p : Params) :
    (wordBits p, wordBytes p, blockBytes p, kwSet p, rkDepth p) ∈
      [ (24, 3, 6, [3, 4], 36), (48, 6, 12, [2, 3], 54), (16, 2, 4, [4], 32),
        (32, 4, 8, [3, 4], 44), (64, 8, 16, [2, 3, 4], 72) ] := by
  cases p <;> decide

/-- Settles O31: `paramsOf` finds exactly the builds with the given parameters, and the builds are few
enough to compare each one with its row of R10. -/
theorem buildsAndParameters : Obligations.BuildsAndParameters := by
  unfold Obligations.BuildsAndParameters
  refine ⟨fun n ext => ⟨?_, fun _ => paramsOf_eq_some_iff.mp⟩, derivedParameters_mem_table⟩
  simpa only [paramsOf_eq_some_iff] using exists_build_iff n ext

end Sys2Proof.Machine
end

section
/-! Proofs: the identification registers and CTRL (spec/10_state.md, R30 to R33). -/

namespace Sys2Proof.Machine

/-! ### Reads by a register's name -/

/-- Outside the results a read by a register's name returns its value at any time (R48, R60). -/
theorem reads_offsetOf {r : Reg} (h : r.openWhileBusy = false) (s : State) :
    reads (offsetOf r) (readReg r s) s := by
  simpa only [regAt_offsetOf] using
    reads_defined (s := s) (off := offsetOf r) (by rw [regAt_offsetOf, h])

/-! ### Identification -/

/-- CAPS is determined by the word size alone: EXT_CONFIGS adds no row to the default sizes (R32). -/
theorem capsWord_of_wordBits (p : Params) :
    (wordBits p = 24 → capsWord p = 0x00060618) ∧ (wordBits p = 48 → capsWord p = 0x00030C30) ∧
    (wordBits p = 16 → capsWord p = 0x00040410) ∧ (wordBits p = 32 → capsWord p = 0x00060820) ∧
    (wordBits p = 64 → capsWord p = 0x00071040) := by
  cases p <;> decide

/-- Settles O22: none of the three registers is open while BUSY = 1, so each reads its constant, and the
constant of CAPS follows from the word size. -/
theorem identificationRegisters : Obligations.IdentificationRegisters := by
  unfold Obligations.IdentificationRegisters
  intro s
  have hcaps : reads 0x08 (capsWord s.params) s := reads_offsetOf (r := .caps) rfl s
  obtain ⟨h24, h48, h16, h32, h64⟩ := capsWord_of_wordBits s.params
  exact ⟨reads_offsetOf (r := .id) rfl s, reads_offsetOf (r := .version) rfl s,
    fun h => h24 h ▸ hcaps, fun h => h48 h ▸ hcaps, fun h => h16 h ▸ hcaps,
    fun h => h32 h ▸ hcaps, fun h => h64 h ▸ hcaps⟩

/-! ### CTRL -/

/-- A flag is its own bit and no other. -/
theorem flagBit_getLsbD (b : Bool) {i : Nat} (hi : i < 32) (j : Nat) :
    (flagBit b i).getLsbD j = (b && decide (j = i)) := by
  cases b
  · simp [flagBit]
  · have hone : flagBit true i = BitVec.twoPow 32 i := by simp [flagBit, BitVec.twoPow]
    simp [hone, BitVec.getLsbD_twoPow, hi, eq_comm]

/-- The bits of CTRL as read (R33). -/
theorem ctrlWord_getLsbD (s : State) (j : Nat) :
    (ctrlWord s).getLsbD j = (s.doneIE && decide (j = 0) || s.errIE && decide (j = 1)) := by
  rw [ctrlWord, BitVec.getLsbD_or, flagBit_getLsbD _ (by decide), flagBit_getLsbD _ (by decide)]

/-- A read of CTRL is defined at any time (R48). -/
theorem reads_ctrl {off : Offset} (h : off &&& 0xFC = 0x0C) (s : State) :
    reads off (ctrlWord s) s := by
  have hr : regAt off = .ctrl := (regAt_ctrl_iff off).mpr h
  have hread := reads_defined (s := s) (off := off) (by rw [hr]; rfl)
  rwa [hr] at hread

/-- A CTRL write is accepted at any time: CTRL is neither read-only nor locked (R24, R48). -/
theorem busWrite_ctrl {off : Offset} (h : off &&& 0xFC = 0x0C) (v : Reg32) (s : State) :
    busWrite off v s = writeCtrl v s := by
  have hr : regAt off = .ctrl := (regAt_ctrl_iff off).mpr h
  rw [busWrite_stored v (by rw [hr]; rfl) (.inr (by rw [hr]; rfl)), hr]
  rfl

theorem writeCtrl_reset {v : Reg32} (h : v.getLsbD 31 = true) (s : State) :
    writeCtrl v s = resetCore s := if_pos h

theorem writeCtrl_enables {v : Reg32} (h : v.getLsbD 31 = false) (s : State) :
    writeCtrl v s = { s with doneIE := v.getLsbD 0, errIE := v.getLsbD 1 } :=
  if_neg (Bool.eq_false_iff.mp h)

/-- The reset operation gives the reset state of R260, register by register. -/
theorem inResetState_resetCore (s : State) : InResetState (resetCore s) where
  ctrl := ⟨rfl, rfl⟩
  status := ⟨rfl, rfl, rfl, rfl, rfl⟩
  errInfo := rfl
  cfg := rfl
  key i := by simp
  din i := by simp
  dout i := by simp
  arg := ⟨rfl, rfl⟩
  res := ⟨rfl, rfl⟩
  rk := rfl

/-- The interrupt is driven exactly by an enabled flag that is set (R230). -/
theorem irq_iff (s : State) :
    irq s = true ↔ (s.doneIE = true ∧ s.done = true) ∨ (s.errIE = true ∧ s.err = true) := by
  simp [irq]

/-- Settles O19: the bits of the value read, and the two branches of an accepted CTRL write. -/
theorem controlRegister : Obligations.ControlRegister := by
  unfold Obligations.ControlRegister
  intro s off v hoff
  refine ⟨⟨ctrlWord s, reads_ctrl hoff s, ?_, ?_, ?_⟩, ?_, ?_, ?_, ?_, rfl, rfl⟩
  · simp only [ctrlWord_getLsbD]
    simp
  · simp only [ctrlWord_getLsbD]
    simp
  · intro i hi
    have h0 : i ≠ 0 := by omega
    have h1 : i ≠ 1 := by omega
    simp [ctrlWord_getLsbD, h0, h1]
  · intro hv
    rw [busWrite_ctrl hoff, writeCtrl_enables hv]
  · intro hv
    rw [busWrite_ctrl hoff, writeCtrl_reset hv]
    exact inResetState_resetCore s
  · intro hie hdone
    exact (irq_iff s).mpr (.inl ⟨hie, hdone⟩)
  · intro hie herr
    exact (irq_iff s).mpr (.inr ⟨hie, herr⟩)

end Sys2Proof.Machine
end

section
/-! Proofs: the byte arrays over the registers, and the block written in place (spec/20_memory.md, R63
and R78). -/

namespace Sys2Proof.Machine

/-! ### The byte view of registers -/

/-- Byte b of register i is byte 4i + b of the array, for registers of any array (R63). -/
theorem byteAt_of_reg {k : Nat} (r : Vector Reg32 k) (i : Fin k) {b : Nat} (hb : b < 4) :
    byteAt r (4 * i + b) = r[i].extractLsb' (8 * b) 8 := by
  have hreg : (4 * (i : Nat) + b) / 4 = i := by omega
  have hbyte : (4 * (i : Nat) + b) % 4 = b := by omega
  simp [byteAt, hreg, hbyte]

/-- An idle write by the name of a register that accepts writes is the store (R24, R48). -/
theorem busWrite_offsetOf_idle {r : Reg} (hr : r.rejectsWrites = false) {s : State}
    (hidle : s.busy = false) (v : Reg32) : busWrite (offsetOf r) v s = storeReg r v s := by
  rw [busWrite_stored v (by rwa [regAt_offsetOf]) (.inl hidle), regAt_offsetOf]

/-- Settles O27: byte `4i + b` lies in register i, and an idle write sets one register of its array. -/
theorem byteViewOfRegisters : Obligations.ByteViewOfRegisters := by
  unfold Obligations.ByteViewOfRegisters
  refine ⟨fun s b hb => ⟨?_, ?_, ?_⟩, fun s i v hidle => ?_, fun s i v hidle => ?_⟩
  · exact fun i => byteAt_of_reg s.key i hb
  · exact fun i => byteAt_of_reg s.din i hb
  · exact fun i => byteAt_of_reg s.dout i hb
  · exact ⟨_, busWrite_offsetOf_idle (r := .key i) rfl hidle v, rfl,
      fun j _ => byteAt_set s.key i v j⟩
  · exact ⟨_, busWrite_offsetOf_idle (r := .din i) rfl hidle v, rfl,
      fun j _ => byteAt_set s.din i v j⟩

/-! ### The block in place -/

/-- ENCRYPT and DECRYPT compute with a valid key and the length of a block (R200, R201). -/
theorem blockCheck_eq_none {s : State} {len : Nat} (hkey : s.keyValid = true)
    (hlen : len = blockBytes s.params) : blockCheck len s = none := by
  simp [blockCheck, hkey, hlen]

/-- Write-back puts the bytes of DOUT within the block into DIN as well (R38, R39, R78). -/
theorem setOut_dinByte_eq_doutByte (out : List Byte) (wb : Bool) (s : State) {j : Nat}
    (hj : j < blockBytes s.params) :
    byteAt (setOut out true s).din j = byteAt (setOut out wb s).dout j := by
  have h16 : j < 16 := Nat.lt_of_lt_of_le hj (blockBytes_le s.params)
  rw [setOut_dinByte _ _ _ h16, setOut_doutByte _ _ _ h16, if_pos ⟨rfl, hj⟩, if_pos hj]

/-- ENCRYPT and DECRYPT write one block whatever WB is: WB selects only whether DIN gets it too (R200). -/
theorem exec_block_output {s t u : State} {len : Nat} (hkey : s.keyValid = true)
    (hlen : len = blockBytes s.params)
    (h : (exec (.encrypt len true) s = .next t ∧ exec (.encrypt len false) s = .next u) ∨
      (exec (.decrypt len true) s = .next t ∧ exec (.decrypt len false) s = .next u)) :
    ∃ out, t = finish (setOut out true s) ∧ u = finish (setOut out false s) := by
  have hcheck := blockCheck_eq_none hkey hlen
  rcases h with ⟨ht, hu⟩ | ⟨ht, hu⟩
  · rw [execEncrypt_ok hcheck] at ht hu
    exact ⟨_, (Host.Outcome.next.inj ht).symm, (Host.Outcome.next.inj hu).symm⟩
  · rw [execDecrypt_ok hcheck] at ht hu
    exact ⟨_, (Host.Outcome.next.inj ht).symm, (Host.Outcome.next.inj hu).symm⟩

/-- Settles O52: with and without write-back the same block is written, and write-back puts it in both
arrays. -/
theorem inPlaceIsSafe : Obligations.InPlaceIsSafe := by
  unfold Obligations.InPlaceIsSafe
  intro s t u len hkey hlen h
  obtain ⟨out, rfl, rfl⟩ := exec_block_output hkey hlen h
  exact ⟨rfl, fun j hj => setOut_dinByte_eq_doutByte out false s hj⟩

end Sys2Proof.Machine
end

section
/-! Proofs: the rows of the opcode map, the reserved OP values and the words that match no row
(spec/30_encoding.md, R86 to R88). -/

namespace Sys2Proof.Machine

/-! ### Words that match a row -/

/-- A word that matches the row with index `k` of the map of R86 decodes to that row's command. -/
theorem decode_of_match_index {w : Reg32} {k : Nat} (hk : k < opcodeRows.length)
    (h : w &&& opcodeRows[k].mask = opcodeRows[k].mtch) :
    decode w = .ok (opcodeRows[k].build w) :=
  decode_of_match (List.getElem_mem hk) h

/-- At most one row matches any word, since the word's OP byte is the match value of each (R86). -/
theorem mtch_eq_of_match {w : Reg32} {r r' : OpcodeRow} (hr : r ∈ opcodeRows) (hr' : r' ∈ opcodeRows)
    (h : w &&& r.mask = r.mtch) (h' : w &&& r'.mask = r'.mtch) : r.mtch = r'.mtch :=
  (op_of_match hr h).symm.trans (op_of_match hr' h')

/-- Settles O3: the row at each index gives its command, and the OP byte tells the rows apart. -/
theorem rowWordsDecode : Obligations.RowWordsDecode := by
  unfold Obligations.RowWordsDecode
  simp only [← imm8Of_eq, ← kwOf_eq]
  refine ⟨fun w h => ?nop, fun w h => ?loadKey, fun w h => ?encrypt, fun w h => ?decrypt,
    fun w h => ?clearKey, fun w h => ?rkRead, fun w h => ?roundEnc, fun w h => ?roundDec,
    fun w h => ?rotl, fun w h => ?rotr, fun w h => ?scramble, fun w h => ?zbit,
    fun w r r' => mtch_eq_of_match, fun w i h => ?matched⟩
  case nop => exact decode_of_match_index (k := 0) (by decide) h
  case loadKey => exact decode_of_match_index (k := 1) (by decide) h
  case encrypt => exact decode_of_match_index (k := 2) (by decide) h
  case decrypt => exact decode_of_match_index (k := 3) (by decide) h
  case clearKey => exact decode_of_match_index (k := 4) (by decide) h
  case rkRead => exact decode_of_match_index (k := 5) (by decide) h
  case roundEnc => exact decode_of_match_index (k := 6) (by decide) h
  case roundDec => exact decode_of_match_index (k := 7) (by decide) h
  case rotl => exact decode_of_match_index (k := 8) (by decide) h
  case rotr => exact decode_of_match_index (k := 9) (by decide) h
  case scramble => exact decode_of_match_index (k := 10) (by decide) h
  case zbit => exact decode_of_match_index (k := 11) (by decide) h
  case matched =>
    obtain ⟨r, hr, hmatch, -⟩ := match_of_decode h
    exact ⟨r, hr, hmatch⟩

/-! ### The completion of an illegal word -/

/-- A pending word that is no command completes with ILLEGAL_CMD, whatever makes it none (R87). -/
theorem completePending_of_error {s : State} {e : DecodeError} (h : decode s.pending = .error e) :
    completePending s = .next (commandErrorState .illegalCmd s) := by
  rw [completePending, h]
  rfl

theorem decode_error_of_no_match {w : Reg32} (h : ∀ r ∈ opcodeRows, w &&& r.mask ≠ r.mtch) :
    ∃ e, decode w = .error e := by
  rw [decode_of_no_match h]
  split
  · exact ⟨_, rfl⟩
  · exact ⟨_, rfl⟩

/-- In a cycle in which the engine acts, BUSY = 1 makes its part the completion (R102). -/
theorem enginePhase_of_busy {c : Cycle} {s : State} (hc : c.engine = true) (hb : s.busy = true) :
    enginePhase c s = completePending s := by
  simp [enginePhase, hc, hb]

/-! ### Reserved OP values -/

/-- The OP values of the rows are 0x00 to 0x0B (R86). -/
theorem opcodeRow_mtch_lt : ∀ r ∈ opcodeRows, r.mtch.toNat < 0x0C := by decide

theorem no_match_of_reserved_op {w : Reg32} (hop : 0x0C ≤ w.toNat % 256) :
    ∀ r ∈ opcodeRows, w &&& r.mask ≠ r.mtch := by
  intro r hr h
  have hlt := opcodeRow_mtch_lt r hr
  rw [← op_of_match hr h, opByte_toNat] at hlt
  omega

/-- A reserved OP value is rejected by that name, whatever the other bits are (R88). -/
theorem decode_of_reserved_op {w : Reg32} (hop : 0x0C ≤ w.toNat % 256) :
    decode w = .error .reservedOp := by
  rw [decode_of_no_match (no_match_of_reserved_op hop), opOf_eq, if_neg (by omega)]

/-- Settles O4: every row's OP is below 0x0C, so a reserved OP matches no row. -/
theorem reservedOpsAreIllegal : Obligations.ReservedOpsAreIllegal := by
  unfold Obligations.ReservedOpsAreIllegal
  refine ⟨fun w hop => ⟨decode_of_reserved_op hop, ?_⟩,
    decode_of_match_index (k := 0) (by decide) (by decide), decode_of_reserved_op (by decide)⟩
  rintro s rfl
  exact completePending_of_error (decode_of_reserved_op hop)

/-! ### Reserved bits -/

/-- Every row requires bits 23:19 and 31:25 to be 0 (R86, R87). -/
theorem opcodeRow_reserved_bits :
    ∀ r ∈ opcodeRows, r.mask &&& 0xFEF80000 = 0xFEF80000 ∧ r.mtch &&& 0xFEF80000 = 0 := by
  decide

theorem reserved_bits_of_match {w : Reg32} {r : OpcodeRow} (hr : r ∈ opcodeRows)
    (h : w &&& r.mask = r.mtch) : w &&& 0xFEF80000 = 0 := by
  obtain ⟨hmask, hmtch⟩ := opcodeRow_reserved_bits r hr
  rw [← hmask, ← BitVec.and_assoc, h, hmtch]

/-- Settles O7: a cycle without a transfer is the completion alone, and it finds no command. -/
theorem illegalWordReports : Obligations.IllegalWordReports := by
  unfold Obligations.IllegalWordReports
  refine ⟨fun s rest hbusy hno hscript => ?_, fun w hw r hr h => hw (reserved_bits_of_match hr h),
    by decide, by decide⟩
  obtain ⟨e, he⟩ := decode_error_of_no_match hno
  calc step s
      = enginePhase Cycle.engineTurn { s with script := rest, rdata := none } :=
        step_engineTurn hscript
    _ = completePending { s with script := rest, rdata := none } := enginePhase_of_busy rfl hbusy
    _ = .next (commandErrorState .illegalCmd { s with script := rest, rdata := none }) :=
        completePending_of_error he

end Sys2Proof.Machine
end

section
/-! Proofs: issue, the enabling of Complete, the failing commands and NOP (spec/40_command_model.md, R100
to R106). -/

namespace Sys2Proof.Machine

/-! ### Issue -/

/-- Settles O17: with BUSY = 0 the lock on CMD does not apply, so the write is the issue of R100. -/
theorem issueCommand : Obligations.IssueCommand := by
  unfold Obligations.IssueCommand
  intro s off v hidle hoff
  have hr : regAt off = .cmd := (regAt_cmd_iff off).mpr hoff
  rw [busWrite_stored v (by rw [hr]; rfl) (.inl hidle), hr]
  rfl

/-! ### Complete is enabled by BUSY -/

/-- A cycle of the script with `rst_n` = 1 is its engine part and then its transfer (R225). -/
theorem step_of_script {s : State} {c : Cycle} {rest : List Cycle} (hscript : s.script = c :: rest)
    (hrst : c.rstN = true) :
    step s = mapNext (busPhase c) (enginePhase c { s with script := rest, rdata := none }) := by
  simp [step, nextCycle, beginCycle, clockEdge, hscript, hrst]

/-- With BUSY = 0 the engine's part of a cycle is empty (R102). -/
theorem enginePhase_idle {s : State} (hidle : s.busy = false) (c : Cycle) :
    enginePhase c s = .next s := by
  simp [enginePhase, hidle]

/-- Settles O9: the start of a cycle keeps BUSY, and BUSY alone decides whether the engine's part of the
cycle is empty or a completion. -/
theorem completeEnabledByBusy : Obligations.CompleteEnabledByBusy := by
  unfold Obligations.CompleteEnabledByBusy
  intro s c rest hrst hengine hscript
  rw [step_of_script hscript hrst]
  refine ⟨fun hidle => ?idle, fun hbusy => ?busy⟩
  case idle =>
    rw [enginePhase_idle (s := { s with script := rest, rdata := none }) hidle, mapNext_next]
  case busy =>
    obtain ⟨u, hu, hub, hud, -⟩ :=
      enginePhase_busy (s := { s with script := rest, rdata := none }) hengine hbusy
    exact ⟨u, by rw [hu, mapNext_next], hub, hud⟩

/-! ### What a failing command leaves -/

/-- The codes a command can raise, from its "Errors" line in the spec (R105, R220). -/
def raisableCodes : Instr → List ErrCode
  | .nop | .clearKey => []
  | .loadKey _ | .zbit _ _ => [.config]
  | .encrypt _ _ | .decrypt _ _ => [.noKey, .blockSize]
  | .rkRead _ | .roundEnc _ | .roundDec _ => [.noKey, .badOperand]
  | .rotl _ | .rotr _ | .scramble => [.badOperand]

/-- The state a command raises in: only LOAD_KEY lists writes before its raise (R105, R160). -/
def raiseState : Instr → State → State
  | .loadKey _, s => dropKey s
  | _, s => s

@[simp] theorem raiseState_err (i : Instr) (s : State) : (raiseState i s).err = s.err := by
  cases i <;> rfl

@[simp] theorem raiseState_pending (i : Instr) (s : State) : (raiseState i s).pending = s.pending := by
  cases i <;> rfl

/-- A command raises one of its codes, or completes without touching ERR. -/
theorem exec_raises_or_finishes (i : Instr) (s : State) :
    (∃ e ∈ raisableCodes i, exec i s = .next (commandErrorState e (raiseState i s))) ∨
    ∃ u, exec i s = .next (finish u) ∧ u.err = s.err := by
  cases i with
  | nop => exact .inr ⟨s, execNop_eq s, rfl⟩
  | clearKey => exact .inr ⟨dropKey s, execClearKey_eq s, rfl⟩
  | loadKey len =>
    cases h : keyConfig s.params len with
    | none => exact .inl ⟨.config, by simp [raisableCodes], execLoadKey_bad h⟩
    | some c => exact .inr ⟨_, execLoadKey_ok h, rfl⟩
  | zbit k kw =>
    cases h : ctLookup s.params kw with
    | none => exact .inl ⟨.config, by simp [raisableCodes], execZbit_bad h⟩
    | some c => exact .inr ⟨_, execZbit_ok h, rfl⟩
  | encrypt len wb =>
    rcases blockCheck_cases len s with ⟨-, h⟩ | ⟨-, -, h⟩ | ⟨-, -, h⟩
    · exact .inl ⟨.noKey, by simp [raisableCodes], execEncrypt_raise h⟩
    · exact .inl ⟨.blockSize, by simp [raisableCodes], execEncrypt_raise h⟩
    · exact .inr ⟨_, execEncrypt_ok h, rfl⟩
  | decrypt len wb =>
    rcases blockCheck_cases len s with ⟨-, h⟩ | ⟨-, -, h⟩ | ⟨-, -, h⟩
    · exact .inl ⟨.noKey, by simp [raisableCodes], execDecrypt_raise h⟩
    · exact .inl ⟨.blockSize, by simp [raisableCodes], execDecrypt_raise h⟩
    · exact .inr ⟨_, execDecrypt_ok h, rfl⟩
  | roundEnc k =>
    rcases roundCheck_cases k s with ⟨-, h⟩ | ⟨-, -, h⟩ | ⟨-, -, -, -, h⟩
    · exact .inl ⟨.noKey, by simp [raisableCodes], execRoundEnc_raise h⟩
    · exact .inl ⟨.badOperand, by simp [raisableCodes], execRoundEnc_raise h⟩
    · exact .inr ⟨_, execRoundEnc_ok h, rfl⟩
  | roundDec k =>
    rcases roundCheck_cases k s with ⟨-, h⟩ | ⟨-, -, h⟩ | ⟨-, -, -, -, h⟩
    · exact .inl ⟨.noKey, by simp [raisableCodes], execRoundDec_raise h⟩
    · exact .inl ⟨.badOperand, by simp [raisableCodes], execRoundDec_raise h⟩
    · exact .inr ⟨_, execRoundDec_ok h, rfl⟩
  | rkRead k =>
    rw [execRkRead_cases]
    split
    · exact .inl ⟨.noKey, by simp [raisableCodes], rfl⟩
    split
    · exact .inl ⟨.badOperand, by simp [raisableCodes], rfl⟩
    · exact .inr ⟨_, rfl, rfl⟩
  | rotl a =>
    rw [execRotl_cases]
    split
    · exact .inl ⟨.badOperand, by simp [raisableCodes], rfl⟩
    · exact .inr ⟨_, rfl, rfl⟩
  | rotr a =>
    rw [execRotr_cases]
    split
    · exact .inl ⟨.badOperand, by simp [raisableCodes], rfl⟩
    · exact .inr ⟨_, rfl, rfl⟩
  | scramble =>
    rw [execScramble_cases]
    split
    · exact .inl ⟨.badOperand, by simp [raisableCodes], rfl⟩
    · exact .inr ⟨_, rfl, rfl⟩

/-- A command that sets ERR has raised (R105). -/
theorem raised_of_err_set {i : Instr} {s t : State} (h : exec i s = .next t) (hs : s.err = false)
    (ht : t.err = true) :
    ∃ e ∈ raisableCodes i, t = commandErrorState e (raiseState i s) := by
  rcases exec_raises_or_finishes i s with ⟨e, he, hexec⟩ | ⟨u, hexec, hu⟩
  · exact ⟨e, he, Host.Outcome.next.inj (h.symm.trans hexec)⟩
  · obtain rfl := Host.Outcome.next.inj (h.symm.trans hexec)
    rw [finish_err, hu, hs] at ht
    cases ht

/-- With ERR = 0 a raise records its own code, and the latched word as its information (R105, R222). -/
theorem commandErrorState_record {s : State} (hs : s.err = false) (e : ErrCode) :
    (commandErrorState e s).errCode = e ∧ (commandErrorState e s).errInfo = s.pending := by
  simp [commandErrorState, hs]

/-- Settles O60: the command has raised one of its codes, in `s` itself or, for LOAD_KEY, in `s` without
its key state, and the record is the code and the word of that raise. -/
theorem failingCommandFrame : Obligations.FailingCommandFrame := by
  unfold Obligations.FailingCommandFrame
  intro i s t h hs ht
  obtain ⟨e, he, rfl⟩ := raised_of_err_set h hs ht
  obtain ⟨hcode, hinfo⟩ := commandErrorState_record ((raiseState_err i s).trans hs) e
  refine ⟨hinfo.trans (raiseState_pending i s), ?_⟩
  rw [hcode]
  cases i with
  | nop | clearKey => cases he
  | loadKey | zbit | rotl | rotr | scramble =>
    obtain rfl := List.mem_singleton.mp he
    rfl
  | encrypt | decrypt | rkRead | roundEnc | roundDec =>
    exact ⟨rfl, List.mem_pair.mp he⟩

/-! ### NOP -/

/-- A row without fields is matched by one word only (R86). -/
theorem no_match_of_bare_op {w : Reg32} {r : OpcodeRow} (hr : r ∈ opcodeRows)
    (hmask : r.mask = 0xFFFFFFFF) (hop : w &&& 0xFF = r.mtch) (hw : w ≠ r.mtch) :
    ∀ r' ∈ opcodeRows, w &&& r'.mask ≠ r'.mtch := by
  intro r' hr' h
  obtain rfl := opcodeRow_eq hr' hr ((op_of_match hr' h).symm.trans hop)
  rw [hmask, and_allBits] at h
  exact hw h

/-- Another word with the OP of a row without fields has a nonzero unused bit (R87). -/
theorem decode_of_bare_op {w : Reg32} {r : OpcodeRow} (hr : r ∈ opcodeRows)
    (hmask : r.mask = 0xFFFFFFFF) (hop : w.toNat % 256 = r.mtch.toNat) (hw : w ≠ r.mtch) :
    decode w = .error .nonzeroUnusedBits := by
  have hbyte : w &&& 0xFF = r.mtch := BitVec.eq_of_toNat_eq ((opByte_toNat w).trans hop)
  have hlt : opOf w < 12 := by
    rw [opOf_eq, hop]
    exact opcodeRow_mtch_lt r hr
  rw [decode_of_no_match (no_match_of_bare_op hr hmask hbyte hw), if_pos hlt]

/-- Settles O40: NOP is the end of a completion alone, and its row has no fields. -/
theorem nopCommand : Obligations.NopCommand := by
  unfold Obligations.NopCommand
  refine ⟨execNop_eq, decode_of_match_index (k := 0) (by decide) (by decide), fun w hop hw => ?_⟩
  exact decode_of_bare_op (r := opcodeRows[0]) (by simp [opcodeRows]) rfl hop hw

end Sys2Proof.Machine
end

section
/-! Proofs: the configuration table, the z-sequences and ZBIT (spec/41_constant_table.md, R120 to R124). -/

namespace Sys2Proof.Machine

/-! ### The configuration table -/

/-- A build accepts the rows of its word size; those marked so need EXT_CONFIGS (R120). -/
theorem mem_acceptedRows_iff {p : Params} {r : ConfigRow} : r ∈ acceptedRows p ↔
    r ∈ configTable ∧ r.wordBits = wordBits p ∧ (r.needsExt = false ∨ extConfigs p = true) := by
  simp [acceptedRows]

theorem ctLookup_eq_some_iff {p : Params} {m T j : Nat} : ctLookup p m = some (T, j) ↔
    ∃ r ∈ acceptedRows p, r.keyWords = m ∧ r.rounds = T ∧ r.zsel = j := by
  refine ⟨ctLookup_row, ?_⟩
  rintro ⟨r, hr, rfl, rfl, rfl⟩
  exact ctLookup_of_row hr

/-- The default rows of the table, as tuples (n, m, T, j) (R120). -/
theorem default_mem_configTable_iff (n m T j : Nat) : ⟨n, m, T, j, false⟩ ∈ configTable ↔
    (n, m, T, j) ∈ [ (24, 3, 36, 0), (24, 4, 36, 1), (48, 2, 52, 2), (48, 3, 54, 3) ] := by
  simp [configTable]

/-- The rows of the table that need EXT_CONFIGS, as tuples (n, m, T, j) (R120). -/
theorem ext_mem_configTable_iff (n m T j : Nat) : ⟨n, m, T, j, true⟩ ∈ configTable ↔
    (n, m, T, j) ∈ [ (16, 4, 32, 0), (32, 3, 42, 2), (32, 4, 44, 3), (64, 2, 68, 2), (64, 3, 69, 3),
      (64, 4, 72, 4) ] := by
  simp [configTable]

/-- CT_lookup finds the default rows in every build and the other rows under EXT_CONFIGS (R123). -/
theorem ctLookup_eq_some_iff_mem_configTable {p : Params} {m T j : Nat} :
    ctLookup p m = some (T, j) ↔ ⟨wordBits p, m, T, j, false⟩ ∈ configTable ∨
      (extConfigs p = true ∧ ⟨wordBits p, m, T, j, true⟩ ∈ configTable) := by
  simp only [ctLookup_eq_some_iff, mem_acceptedRows_iff]
  constructor
  · rintro ⟨⟨n, m, T, j, ext⟩, ⟨hr, rfl, hext⟩, rfl, rfl, rfl⟩
    cases ext with
    | false => exact .inl hr
    | true => exact .inr ⟨hext.resolve_left Bool.noConfusion, hr⟩
  · rintro (hr | ⟨hext, hr⟩)
    · exact ⟨_, ⟨hr, rfl, .inl rfl⟩, rfl, rfl, rfl⟩
    · exact ⟨_, ⟨hr, rfl, .inr hext⟩, rfl, rfl, rfl⟩

/-- CT_bit reduces its index mod 62 (R123). -/
@[simp] theorem ctBit_mod (j i : Nat) : ctBit j (i % 62) = ctBit j i := by
  simp [ctBit]

/-- Settles O32: the two kinds of rows of the table, each as the spec's list of tuples. -/
theorem configurationTable : Obligations.ConfigurationTable := by
  unfold Obligations.ConfigurationTable
  refine ⟨fun p m T j => ?_, fun j i => (ctBit_mod j i).symm⟩
  rw [ctLookup_eq_some_iff_mem_configTable, default_mem_configTable_iff, ext_mem_configTable_iff]

/-! ### ZBIT -/

/-- KW_SET holds the key-word counts that CT_lookup recognizes (R10, R123). -/
theorem mem_kwSet_iff {p : Params} {m : Nat} : m ∈ kwSet p ↔ ∃ T j, ctLookup p m = some (T, j) := by
  simp [kwSet, ctLookup_eq_some_iff]

theorem ctLookup_eq_none_of_notMem_kwSet {p : Params} {m : Nat} (h : m ∉ kwSet p) :
    ctLookup p m = none := by
  rw [mem_kwSet_iff, not_exists] at h
  exact Option.eq_none_iff_forall_ne_some.mpr fun (T, j) hc => h T ⟨j, hc⟩

theorem ofNat_toNat_bool (b : Bool) : BitVec.ofNat 64 b.toNat = if b then 1 else 0 := by
  cases b <;> rfl

/-- Settles O48: KW_SET decides whether ZBIT completes with its two results or with CONFIG. -/
theorem zbitCommand : Obligations.ZbitCommand := by
  unfold Obligations.ZbitCommand
  refine fun s i kw => ⟨fun hkw => ?bad, fun T j hrow => ?ok, mem_kwSet_iff.mp⟩
  case bad => exact execZbit_bad (ctLookup_eq_none_of_notMem_kwSet hkw)
  case ok =>
    rw [execZbit_ok hrow, ofNat_toNat_bool, ctBit_mod]
    rfl

/-! ### The literals of the z-sequences -/

/-- The packed words of R121 hold the literals of R121, which are written with bit 0 leftmost. -/
theorem ctBit_literals : ∀ i < 62,
    ctBit 0 i = Nat.testBit 0b11111010001001010110000111001101111101000100101011000011100110 (61 - i) ∧
    ctBit 1 i = Nat.testBit 0b10001110111110010011000010110101000111011111001001100001011010 (61 - i) ∧
    ctBit 2 i = Nat.testBit 0b10101111011100000011010010011000101000010001111110010110110011 (61 - i) ∧
    ctBit 3 i = Nat.testBit 0b11011011101011000110010111100000010010001010011100110100001111 (61 - i) ∧
    ctBit 4 i = Nat.testBit 0b11010001111001101011011000100000010111000011001010010011101111 (61 - i) := by
  decide

/-- Settles O33: an index mod 62 is one of the 62 positions of the literals. -/
theorem zSequenceLiterals : Obligations.ZSequenceLiterals := by
  unfold Obligations.ZSequenceLiterals
  intro i
  simpa only [ctBit_mod] using ctBit_literals (i % 62) (Nat.mod_lt i (by decide))

/-! ### Periodic bit sequences -/

/-- Two sequences with a common period are equal when they agree on one period. -/
theorem eq_of_eq_on_period {u v : Nat → Bool} {n : Nat} (hn : 0 < n) (hu : Function.Periodic u n)
    (hv : Function.Periodic v n) (h : ∀ i < n, u i = v i) (i : Nat) : u i = v i := by
  rw [← hu.map_mod_nat, ← hv.map_mod_nat]
  exact h _ (Nat.mod_lt i hn)

theorem periodic_xor {u v : Nat → Bool} {n : Nat} (hu : Function.Periodic u n)
    (hv : Function.Periodic v n) : Function.Periodic (fun i => u i ^^ v i) n :=
  fun i => congrArg₂ xor (hu i) (hv i)

theorem ctBit_periodic (j : Nat) : Function.Periodic (ctBit j) 62 := by
  intro i
  rw [← ctBit_mod, Nat.add_mod_right, ctBit_mod]

/-- The sequence 0101... of R122 repeats after 62 bits too, since 62 is even. -/
theorem alternating_periodic : Function.Periodic (fun i : Nat => decide (i % 2 = 1)) 62 := by
  intro i
  simp [Nat.add_mod]

/-! ### Linear recurrences of a periodic bit sequence -/

/-- The next bit of a linear recurrence of length 5 over the bits of `u` from `i` on. -/
def linear5 (a b c d e : Bool) (u : Nat → Bool) (i : Nat) : Bool :=
  (a && u i) ^^ (b && u (i + 1)) ^^ (c && u (i + 2)) ^^ (d && u (i + 3)) ^^ (e && u (i + 4))

theorem linear5_periodic (a b c d e : Bool) {u : Nat → Bool} {n : Nat} (hu : Function.Periodic u n) :
    Function.Periodic (linear5 a b c d e u) n := by
  intro i
  simp only [linear5, hu i, Nat.add_right_comm i n, hu (i + _)]

/-- A recurrence of length 5 that holds over one period generates the sequence. No recurrence of length 4
does when four zeros are followed by a one, since it answers zero after four zeros. -/
theorem linearComplexity5_of_period {u : Nat → Bool} {n : Nat} (hn : 0 < n)
    (hu : Function.Periodic u n) (a b c d e : Bool) (hrec : ∀ i < n, u (i + 5) = linear5 a b c d e u i)
    {k : Nat} (hk : [u k, u (k + 1), u (k + 2), u (k + 3), u (k + 4)] =
      [false, false, false, false, true]) :
    LinearComplexity5 u := by
  constructor
  · exact ⟨a, b, c, d, e,
      eq_of_eq_on_period hn (hu.add_const 5) (linear5_periodic a b c d e hu) hrec⟩
  · rintro ⟨a, b, c, d, h⟩
    simp only [List.cons.injEq, and_true] at hk
    obtain ⟨h0, h1, h2, h3, h4⟩ := hk
    have hnext := h k
    simp [h0, h1, h2, h3, h4] at hnext

/-! ### The structure of the z-sequences -/

theorem ctBit_zero_period : Function.Periodic (ctBit 0) 31 :=
  eq_of_eq_on_period (by decide) ((ctBit_periodic 0).add_const 31) (ctBit_periodic 0) (by decide)

theorem ctBit_one_period : Function.Periodic (ctBit 1) 31 :=
  eq_of_eq_on_period (by decide) ((ctBit_periodic 1).add_const 31) (ctBit_periodic 1) (by decide)

theorem ctBit_two_eq (i : Nat) : ctBit 2 i = (ctBit 0 i ^^ decide (i % 2 = 1)) :=
  eq_of_eq_on_period (by decide) (ctBit_periodic 2)
    (periodic_xor (ctBit_periodic 0) alternating_periodic) (by decide) i

theorem ctBit_three_eq (i : Nat) : ctBit 3 i = (ctBit 1 i ^^ decide (i % 2 = 1)) :=
  eq_of_eq_on_period (by decide) (ctBit_periodic 3)
    (periodic_xor (ctBit_periodic 1) alternating_periodic) (by decide) i

theorem ctBit_four_xor_period :
    Function.Periodic (fun i => ctBit 4 i ^^ decide (i % 2 = 1)) 31 :=
  have hperiod := periodic_xor (ctBit_periodic 4) alternating_periodic
  eq_of_eq_on_period (by decide) (hperiod.add_const 31) hperiod (by decide)

theorem ctBit_zero_complexity : LinearComplexity5 (ctBit 0) :=
  linearComplexity5_of_period (by decide) ctBit_zero_period true true true false true (by decide)
    (k := 19) (by decide)

theorem ctBit_one_complexity : LinearComplexity5 (ctBit 1) :=
  linearComplexity5_of_period (by decide) ctBit_one_period true true true true false (by decide)
    (k := 20) (by decide)

theorem ctBit_four_xor_complexity :
    LinearComplexity5 (fun i => ctBit 4 i ^^ decide (i % 2 = 1)) :=
  linearComplexity5_of_period (by decide) ctBit_four_xor_period true false true false false (by decide)
    (k := 1) (by decide)

/-- Settles O34: the sequences repeat after 62 bits, so each equation is a check of one period. The parts
of z2 and z3 are z0 and z1 again, because a second exclusive or undoes the first. -/
theorem zSequenceStructure : Obligations.ZSequenceStructure := by
  unfold Obligations.ZSequenceStructure
  refine ⟨ctBit_zero_period, ctBit_one_period, ctBit_two_eq, ctBit_three_eq, ctBit_four_xor_period,
    ctBit_zero_complexity, ctBit_one_complexity, ?_, ?_, ctBit_four_xor_complexity⟩
  · simpa [ctBit_two_eq] using ctBit_zero_complexity
  · simpa [ctBit_three_eq] using ctBit_one_complexity

end Sys2Proof.Machine
end

section
/-! Proofs: the bits of rotations, the round trips of the codec, and ROTL and ROTR
(spec/42_word_codec.md, R140 to R145). -/

namespace Sys2Proof.Machine

/-! ### Positions within the field -/

theorem add_mod_add_sub_mod {n p s : Nat} (hp : p < n) (hs : s < n) :
    ((p + s) % n + n - s) % n = p := by
  have hsum : p + s + (n - s) = p + n := by omega
  rw [Nat.add_sub_assoc hs.le, Nat.mod_add_mod, hsum, Nat.add_mod_right, Nat.mod_eq_of_lt hp]

theorem add_sub_mod_add_mod {n p s : Nat} (hp : p < n) (hs : s < n) :
    ((p + n - s) % n + s) % n = p := by
  have hsum : p + n - s + s = p + n := by omega
  rw [Nat.mod_add_mod, hsum, Nat.add_mod_right, Nat.mod_eq_of_lt hp]

/-! ### The bits of rotations -/

/-- Bit i of a left rotation comes from bit (i - s) mod n (R142). -/
theorem rotl_getLsbD_mod {n s i : Nat} {w : Word} (hn : n ≤ 64) (hs : s < n)
    (hw : isWord n w = true) (hi : i < n) :
    (rotl n w s).getLsbD i = w.getLsbD ((i + n - s) % n) := by
  rw [rotl_getLsbD hn hs hw hi]
  split
  · next hle =>
    have hpos : i + n - s = i - s + n := by omega
    rw [hpos, Nat.add_mod_right, Nat.mod_eq_of_lt (by omega)]
  · next hlt => rw [Nat.mod_eq_of_lt (by omega)]

/-- Bit i of a right rotation comes from bit (i + s) mod n (R142). -/
theorem rotr_getLsbD_mod {n s i : Nat} {w : Word} (hn : n ≤ 64) (hs : s < n)
    (hw : isWord n w = true) (hi : i < n) :
    (rotr n w s).getLsbD i = w.getLsbD ((i + s) % n) := by
  rw [rotr, rotl_getLsbD_mod hn (Nat.mod_lt _ (by omega)) hw hi]
  rcases Nat.eq_zero_or_pos s with rfl | hpos
  · simp
  · have hback : i + n - (n - s) = i + s := by omega
    rw [Nat.mod_eq_of_lt (by omega : n - s < n), hback]

theorem rotl_moves_bit {n s p : Nat} {w : Word} (hn : n ≤ 64) (hs : s < n)
    (hw : isWord n w = true) (hp : p < n) :
    (rotl n w s).getLsbD ((p + s) % n) = w.getLsbD p := by
  rw [rotl_getLsbD_mod hn hs hw (Nat.mod_lt _ (by omega)), add_mod_add_sub_mod hp hs]

theorem rotr_moves_bit {n s p : Nat} {w : Word} (hn : n ≤ 64) (hs : s < n)
    (hw : isWord n w = true) (hp : p < n) :
    (rotr n w s).getLsbD ((p + n - s) % n) = w.getLsbD p := by
  rw [rotr_getLsbD_mod hn hs hw (Nat.mod_lt _ (by omega)), add_sub_mod_add_mod hp hs]

/-- Settles O35: the bit that a rotation puts at a position comes from the position rotated back. -/
theorem rotationMovesBits : Obligations.RotationMovesBits := by
  unfold Obligations.RotationMovesBits
  intro n s p w _ hn hs hp hw
  exact ⟨rotl_moves_bit hn hs hw hp, rotr_moves_bit hn hs hw hp, rotl_isWord hn hw,
    rotr_isWord hn hw⟩

/-! ### ROTL and ROTR -/

theorem execRot_refused {a : Nat} {s : State}
    (h : bitsOf s ≤ a ∨ 2 ^ bitsOf s ≤ s.arg0.toNat) :
    exec (.rotl a) s = .next (commandErrorState .badOperand s) ∧
    exec (.rotr a) s = .next (commandErrorState .badOperand s) := by
  have hrefused : rotationRefused a s = true := rotationRefused_iff.mpr h
  rw [execRotl_cases, execRotr_cases, if_pos hrefused, if_pos hrefused]
  exact ⟨rfl, rfl⟩

theorem execRot_accepted {a : Nat} {s : State} (ha : a < bitsOf s)
    (harg : s.arg0.toNat < 2 ^ bitsOf s) :
    exec (.rotl a) s = .next (finish (setRes0 (rotl (bitsOf s) s.arg0 a) s)) ∧
    exec (.rotr a) s = .next (finish (setRes0 (rotr (bitsOf s) s.arg0 a) s)) := by
  have haccepted : ¬ rotationRefused a s = true := by
    rw [rotationRefused_iff]
    omega
  rw [execRotl_cases, execRotr_cases, if_neg haccepted, if_neg haccepted]
  exact ⟨rfl, rfl⟩

/-- Settles O47: an accepted command stores the rotation of ARG0, whose bits are those of R142. -/
theorem rotateCommands : Obligations.RotateCommands := by
  unfold Obligations.RotateCommands
  refine fun s a => ⟨execRot_refused, fun ha harg => ?_⟩
  obtain ⟨hrotl, hrotr⟩ := execRot_accepted ha harg
  have hn : bitsOf s ≤ 64 := wordBits_le s.params
  have hw : isWord (bitsOf s) s.arg0 = true := isWord_iff.mpr harg
  exact ⟨_, _, hrotl, hrotr, isWord_iff.mp (rotl_isWord hn hw), isWord_iff.mp (rotr_isWord hn hw),
    fun p hp => ⟨rotl_moves_bit hn ha hw hp, rotr_moves_bit hn ha hw hp⟩⟩

/-! ### The round trips -/

theorem rotr_rotl {n s : Nat} {w : Word} (hn : n ≤ 64) (hs : s < n) (hw : isWord n w = true) :
    rotr n (rotl n w s) s = w := by
  have hl : isWord n (rotl n w s) = true := rotl_isWord hn hw
  refine word_ext (rotr_isWord hn hl) hw fun i hi => ?_
  rw [rotr_getLsbD_mod hn hs hl hi, rotl_moves_bit hn hs hw hi]

theorem rotl_rotr {n s : Nat} {w : Word} (hn : n ≤ 64) (hs : s < n) (hw : isWord n w = true) :
    rotl n (rotr n w s) s = w := by
  have hr : isWord n (rotr n w s) = true := rotr_isWord hn hw
  refine word_ext (rotl_isWord hn hr) hw fun i hi => ?_
  rw [rotl_getLsbD_mod hn hs hr hi, rotr_moves_bit hn hs hw hi]

/-- The first byte is the lowest, and the others encode what is above it (R140). -/
theorem leEncode_succ (k : Nat) (w : Word) :
    leEncode (k + 1) w = w.extractLsb' 0 8 :: leEncode k (w >>> 8) := by
  rw [leEncode, List.range_succ_eq_map, List.map_cons, List.map_map, leEncode]
  refine congrArg _ (List.map_congr_left fun t _ => ?_)
  ext j hj
  simp [Nat.mul_succ, Nat.add_comm, Nat.add_left_comm]

theorem lowByte_toNat (w : Word) : (w.extractLsb' 0 8).toNat = w.toNat % 256 := by
  simp

theorem dropByte_toNat (w : Word) : (w >>> 8).toNat = w.toNat / 256 := by
  simp [Nat.shiftRight_eq_div_pow]

theorem leDecode_leEncode {k : Nat} {w : Word} (h : w.toNat < 2 ^ (8 * k)) :
    leDecode (leEncode k w) = w.toNat := by
  induction k generalizing w with
  | zero =>
    have hzero : w.toNat = 0 := by omega
    rw [hzero]
    rfl
  | succ k ih =>
    have hhigh : w.toNat / 256 < 2 ^ (8 * k) :=
      Nat.div_lt_of_lt_mul (by rwa [Nat.mul_succ, Nat.pow_add, Nat.mul_comm] at h)
    have htail : leDecode (leEncode k (w >>> 8)) = w.toNat / 256 :=
      (ih (dropByte_toNat w ▸ hhigh)).trans (dropByte_toNat w)
    rw [leEncode_succ, leDecode, htail, lowByte_toNat, Nat.mod_add_div]

/-- Up to 8 bytes are decoded without loss into the 64 bits that hold a word. -/
theorem toNat_ofNat_leDecode {b : List Byte} (h : b.length ≤ 8) :
    (BitVec.ofNat 64 (leDecode b)).toNat = leDecode b := by
  have hlt : leDecode b < 2 ^ 64 :=
    (leDecode_lt b).trans_le (Nat.pow_le_pow_right (by decide) (by omega))
  rw [BitVec.toNat_ofNat, Nat.mod_eq_of_lt hlt]

theorem leEncode_leDecode {b : List Byte} (h : b.length ≤ 8) :
    leEncode b.length (BitVec.ofNat 64 (leDecode b)) = b := by
  induction b with
  | nil => rfl
  | cons x xs ih =>
    have hxs : xs.length ≤ 8 := Nat.le_of_succ_le h
    have hx : x.toNat < 256 := x.isLt
    have hlow : (BitVec.ofNat 64 (leDecode (x :: xs))).extractLsb' 0 8 = x := by
      apply BitVec.eq_of_toNat_eq
      rw [lowByte_toNat, toNat_ofNat_leDecode h, leDecode]
      omega
    have hhigh : BitVec.ofNat 64 (leDecode (x :: xs)) >>> 8 = BitVec.ofNat 64 (leDecode xs) := by
      apply BitVec.eq_of_toNat_eq
      rw [dropByte_toNat, toNat_ofNat_leDecode h, toNat_ofNat_leDecode hxs, leDecode]
      omega
    rw [List.length_cons, leEncode_succ, hlow, hhigh, ih hxs]

/-- Settles O36: each round trip is a lemma of its own; the codec's are inductions over the bytes, the
rotations' compare bits. -/
theorem codecRoundTrip : Obligations.CodecRoundTrip := by
  unfold Obligations.CodecRoundTrip
  refine ⟨?_, fun k w _ hw => leDecode_leEncode hw,
    fun n s w _ hn hs hw => ⟨rotr_rotl hn hs hw, rotl_rotr hn hs hw⟩⟩
  rintro _ b hk rfl
  exact leEncode_leDecode hk

end Sys2Proof.Machine
end

section
/-! Proofs: the forms of the key schedule's steps, and LOAD_KEY, CLEAR_KEY and RK_READ
(spec/43_key_schedule.md, R160 to R168). -/

namespace Sys2Proof.Machine

/-! ### Masking and exclusive or -/

theorem maskN_xor (n : Nat) (a b : Word) : maskN n (a ^^^ b) = maskN n a ^^^ maskN n b := by
  ext i hi
  simp [maskN, Bool.and_xor_distrib_right]

/-- Masking changes no Word (R14). -/
theorem maskN_of_isWord {n : Nat} (hn : n ≤ 64) {a : Word} (ha : isWord n a = true) :
    maskN n a = a :=
  word_ext (isWord_maskN hn a) ha fun i hi => by simp [maskN_getLsbD hn, hi]

/-- The complement within the field is an exclusive or with the n ones (R166). -/
theorem maskN_not {n : Nat} (hn : n ≤ 64) {a : Word} (ha : isWord n a = true) :
    maskN n (~~~ a) = a ^^^ BitVec.ofNat 64 (2 ^ n - 1) := by
  have hones : maskN n (BitVec.allOnes 64) = BitVec.ofNat 64 (2 ^ n - 1) := BitVec.allOnes_and
  rw [← BitVec.xor_allOnes, maskN_xor, maskN_of_isWord hn ha, hones]

theorem isWord_ofNat {n v : Nat} (hv : v < 2 ^ n) : isWord n (BitVec.ofNat 64 v) = true := by
  rw [isWord_iff, BitVec.toNat_ofNat]
  exact (Nat.mod_le _ _).trans_lt hv

/-! ### The equivalent forms -/

/-- `2^n - 4` has the bits of `2^n - 1` without the lowest two. -/
theorem testBit_two_pow_sub_four {n : Nat} (hn : 2 ≤ n) (i : Nat) :
    (2 ^ n - 4).testBit i = (decide (2 ≤ i) && decide (i < n)) := by
  obtain ⟨k, rfl⟩ := Nat.exists_eq_add_of_le hn
  have hshift : 2 ^ (2 + k) - 4 = 2 ^ 2 * (2 ^ k - 1) := by
    rw [Nat.pow_add]
    omega
  rw [hshift, Nat.testBit_two_pow_mul, Nat.testBit_two_pow_sub_one]
  by_cases h : 2 ≤ i
  · have hlt : i - 2 < k ↔ i < 2 + k := by omega
    simp [h, hlt]
  · simp [h]

theorem ones_xor_three {n : Nat} (hn : 2 ≤ n) :
    BitVec.ofNat 64 (2 ^ n - 1) ^^^ 3 = BitVec.ofNat 64 (2 ^ n - 4) := by
  have hthree : (3 : Word) = BitVec.ofNat 64 (2 ^ 2 - 1) := rfl
  apply BitVec.eq_of_getLsbD_eq
  intro i hi
  simp only [hthree, BitVec.getLsbD_xor, BitVec.getLsbD_ofNat, Nat.testBit_two_pow_sub_one,
    testBit_two_pow_sub_four hn, hi, decide_true, Bool.true_and]
  by_cases h : i < 2
  · simp [h, h.trans_le hn]
  · simp [h, Nat.le_of_not_lt h]

/-- The constants of step e together (R166). -/
theorem maskN_not_xor_three {n : Nat} (hn : n ≤ 64) (h2 : 2 ≤ n) {a : Word}
    (ha : isWord n a = true) : maskN n (~~~ a) ^^^ 3 = a ^^^ BitVec.ofNat 64 (2 ^ n - 4) := by
  rw [maskN_not hn ha, BitVec.xor_assoc, ones_xor_three h2]

/-- Settles O39: every term of step e but the complement is a Word, so masking acts on the complement
alone; and `n - 3` is below n. -/
theorem keyScheduleForms : Obligations.KeyScheduleForms := by
  unfold Obligations.KeyScheduleForms
  intro n a hn3 hn ha
  have hpow : 2 ^ 2 ≤ 2 ^ n := Nat.pow_le_pow_right (by decide) (by omega)
  have hform := maskN_not_xor_three hn (by omega) ha
  refine ⟨hform, fun tmp bit htmp => ?_, ?_⟩
  · have hbit : isWord n (BitVec.ofNat 64 bit.toNat) = true :=
      isWord_ofNat (by have := bit.toNat_lt; omega)
    have hthree : isWord n 3 = true := isWord_ofNat (v := 3) (by omega)
    calc maskN n (~~~ a ^^^ tmp ^^^ BitVec.ofNat 64 bit.toNat ^^^ 3)
        = maskN n (~~~ a) ^^^ tmp ^^^ BitVec.ofNat 64 bit.toNat ^^^ 3 := by
          simp only [maskN_xor, maskN_of_isWord hn htmp, maskN_of_isWord hn hbit,
            maskN_of_isWord hn hthree]
      _ = maskN n (~~~ a) ^^^ 3 ^^^ BitVec.ofNat 64 bit.toNat ^^^ tmp := by ac_rfl
      _ = a ^^^ BitVec.ofNat 64 (2 ^ n - 4) ^^^ BitVec.ofNat 64 bit.toNat ^^^ tmp := by rw [hform]
  · rw [rotr, Nat.mod_eq_of_lt (by omega)]

/-! ### CLEAR_KEY and RK_READ -/

/-- Settles O41: CLEAR_KEY is the discard of the key state and the end of a completion, and its row has
no fields. -/
theorem clearKeyCommand : Obligations.ClearKeyCommand := by
  unfold Obligations.ClearKeyCommand
  refine ⟨execClearKey_eq, decode_of_match_index (k := 4) (by decide) (by decide), fun w hop hw => ?_⟩
  exact decode_of_bare_op (r := opcodeRows[4]) (by simp [opcodeRows]) rfl hop hw

/-- Settles O43: the two checks of RK_READ in their order, and then the entry read. -/
theorem rkReadCommand : Obligations.RkReadCommand := by
  unfold Obligations.RkReadCommand
  intro s i
  rw [execRkRead_cases]
  refine ⟨fun hkey => ?noKey, fun hkey hi => ?badOperand, fun hkey hi => ?entry⟩
  case noKey => rw [if_pos hkey]
  case badOperand => rw [if_neg (by simp [hkey]), if_pos hi]
  case entry =>
    rw [if_neg (by simp [hkey]), if_neg (by omega)]
    rfl

/-! ### The round-key file after LOAD_KEY -/

/-- A round key that is the next one of its own sequence satisfies R165 as read off the sequence. -/
theorem keyRecurrence_of_eq_ksNext {n m j : Nat} {k : List Word} {i : Nat}
    (h : rkAt k i = ksNext n m j k i) : KeyRecurrence n m j k i :=
  ⟨_, rfl, h⟩

theorem rkAt_ksSplit (p : Params) (key : Vector Reg32 8) {m i : Nat} (hi : i < m) :
    rkAt (ksSplit p key m) i = wordAt p key (i * wordBytes p) := by
  simp [rkAt, ksSplit, hi]

/-- The expansion begins with the words of the key (R164). -/
theorem rkAt_ksExpand_split (p : Params) (key : Vector Reg32 8) {m i : Nat} (T j : Nat) (hi : i < m) :
    rkAt (ksExpand p key m T j) i = wordAt p key (i * wordBytes p) := by
  rw [ksExpand, rkAt_ksExtend_old _ _ _ _ _ _ (by simpa using hi), rkAt_ksSplit p key hi]

/-- From m on the expansion follows the recurrence (R165). -/
theorem rkAt_ksExpand_next (p : Params) (key : Vector Reg32 8) {m T i : Nat} (j : Nat) (hm : 0 < m)
    (hmi : m ≤ i) (hiT : i < T) :
    rkAt (ksExpand p key m T j) i = ksNext (wordBits p) m j (ksExpand p key m T j) i :=
  rkAt_ksExtend_new hm (T - m) (ksSplit p key m) i (by simp) (by simpa using hmi) (by simp; omega)

/-- The recurrence reads no entry above its index, so the zeros after the sequence do not matter. -/
theorem keyRecurrence_append {n m j i : Nat} {k z : List Word} (hm : 0 < m) (hmi : m ≤ i)
    (hik : i < k.length) (h : rkAt k i = ksNext n m j k i) : KeyRecurrence n m j (k ++ z) i := by
  apply keyRecurrence_of_eq_ksNext
  rw [rkAt_append_left hik, h]
  exact ksNext_congr hm (by omega) (fun t ht => (rkAt_append_left (by omega)).symm) (by omega)

/-! ### LOAD_KEY -/

/-- The fields of CFG do not overlap, so the word is their weighted sum (R36). -/
theorem cfgWord_of_row {p : Params} {r : ConfigRow} (hr : r ∈ acceptedRows p) :
    cfgWord p r.keyWords r.rounds r.zsel = BitVec.ofNat 32
      (wordBits p + r.keyWords * 2 ^ 8 + r.rounds * 2 ^ 16 + r.zsel * 2 ^ 24) := by
  revert r
  cases p <;> decide

/-- A length that is not the key length of an accepted row selects no configuration (R160). -/
theorem keyConfig_eq_none_of_no_row {p : Params} {len : Nat}
    (h : ∀ r ∈ acceptedRows p, len ≠ r.keyWords * wordBytes p) : keyConfig p len = none := by
  refine Option.eq_none_iff_forall_ne_some.mpr fun (m, T, j) hc => ?_
  obtain ⟨hlen, hrow⟩ := keyConfig_eq_some hc
  obtain ⟨r, hr, rfl, -, -⟩ := ctLookup_row hrow
  exact h r hr hlen

/-- Settles O42: an accepted length is that of a row, and the round-key file is the expansion of the key
with zeros after it; any other length selects no configuration. -/
theorem loadKeyCommand : Obligations.LoadKeyCommand := by
  unfold Obligations.LoadKeyCommand
  refine ⟨fun s r hr => ?accepted, fun s len hlen => ?refused⟩
  case refused => exact execLoadKey_bad (keyConfig_eq_none_of_no_row hlen)
  case accepted =>
    obtain ⟨hm, -, hmT, hT, -⟩ := acceptedRow_bounds hr
    have hlen := length_ksExpand s.params s.key r.zsel hmT.le
    refine ⟨_, execLoadKey_ok (keyConfig_of_row hr), ?state, ?length, fun i hi => ?split,
      fun i hmi hiT => ?recurrence, fun i hi => ?zeros⟩
    case state =>
      rw [← cfgWord_of_row hr]
      rfl
    case length =>
      rw [finish_rk, loadKeyState_rk, List.length_append, hlen, List.length_replicate]
      omega
    case split =>
      rw [finish_rk, loadKeyState_rk, rkAt_append_left (by omega), rkAt_ksExpand_split _ _ _ _ hi]
      rfl
    case recurrence =>
      exact keyRecurrence_append (by omega) hmi (by omega)
        (rkAt_ksExpand_next s.params s.key r.zsel (by omega) hmi hiT)
    case zeros =>
      rw [finish_rk, loadKeyState_rk, rkAt_append_zero (by omega)]

/-! ### Two loads of one key -/

/-- The expansion reads only the first m words of the key bytes (R164, R168). -/
theorem ksExpand_congr {p : Params} {key key' : Vector Reg32 8} {m : Nat} (T j : Nat)
    (h : ∀ b, b < m * wordBytes p → byteAt key b = byteAt key' b) :
    ksExpand p key m T j = ksExpand p key' m T j := by
  have hsplit : ksSplit p key m = ksSplit p key' m := by
    refine List.map_congr_left fun i hi => ?_
    have hend : (i + 1) * wordBytes p ≤ m * wordBytes p :=
      Nat.mul_le_mul_right _ (List.mem_range.mp hi)
    rw [Nat.succ_mul] at hend
    rw [wordAt, wordAt, bytesAt_congr fun b _ hb => h b (by omega)]
  rw [ksExpand, ksExpand, hsplit]

/-- Settles O54: both loads are refused and discard the key state, or both expand the same first LEN
bytes. -/
theorem keyLoadIsDeterministic : Obligations.KeyLoadIsDeterministic := by
  unfold Obligations.KeyLoadIsDeterministic
  intro s s' t t' len hp hkey ht ht'
  cases hc : keyConfig s.params len with
  | none =>
    rw [execLoadKey_bad hc] at ht
    rw [execLoadKey_bad (hp ▸ hc)] at ht'
    obtain rfl := Host.Outcome.next.inj ht
    obtain rfl := Host.Outcome.next.inj ht'
    exact ⟨congrArg (fun p => List.replicate (rkDepth p) 0) hp, rfl, rfl, rfl⟩
  | some c =>
    obtain ⟨m, T, j⟩ := c
    rw [(keyConfig_eq_some hc).1] at hkey
    rw [execLoadKey_ok hc] at ht
    rw [execLoadKey_ok (hp ▸ hc)] at ht'
    obtain rfl := Host.Outcome.next.inj ht
    obtain rfl := Host.Outcome.next.inj ht'
    have hrk : (loadKeyState m T j s).rk = (loadKeyState m T j s').rk := by
      rw [loadKeyState_rk, loadKeyState_rk, ksExpand_congr T j hkey, hp]
    exact ⟨hrk, congrArg (cfgWord · m T j) hp, rfl, rfl⟩

end Sys2Proof.Machine
end

section
/-! Proofs: the rounds and their loops, the paired convention, and ROUND_ENC, ROUND_DEC and SCRAMBLE
(spec/44_round_engine.md, R180 to R187). -/

namespace Sys2Proof.Machine

/-! ### The inverse round and the loops -/

theorem xor_xor_cancel_right (a b c : Word) : a ^^^ b ^^^ c ^^^ b ^^^ c = a := by
  calc a ^^^ b ^^^ c ^^^ b ^^^ c = a ^^^ (b ^^^ b) ^^^ (c ^^^ c) := by ac_rfl
    _ = a := by simp

/-- The inverse round removes from y what the round added to it: `f_n` of the same word, and the same
round key (R182). -/
@[simp] theorem rndInv_rnd (n : Nat) (k : Word) (b : Block) : rndInv n k (rnd n k b) = b := by
  simp only [rndInv, rnd, xor_xor_cancel_right]

@[simp] theorem rnd_rndInv (n : Nat) (k : Word) (b : Block) : rnd n k (rndInv n k b) = b := by
  simp only [rndInv, rnd, xor_xor_cancel_right]

/-- The last round of Simon_enc is the first that Simon_dec undoes (R183). -/
theorem simonDec_simonEnc (n : Nat) (k : List Word) (T : Nat) (b : Block) :
    simonDec n k T (simonEnc n k T b) = b := by
  induction T with
  | zero => rfl
  | succ T ih => rw [simonEnc, simonDec, rndInv_rnd, ih]

theorem simonEnc_simonDec (n : Nat) (k : List Word) (T : Nat) (b : Block) :
    simonEnc n k T (simonDec n k T b) = b := by
  induction T generalizing b with
  | zero => rfl
  | succ T ih => rw [simonDec, simonEnc, ih, rnd_rndInv]

/-- Settles O37: the equations are the definitions; a round cancels against its inverse, and the loops by
induction on the number of rounds. -/
theorem simonDecInvertsEnc : Obligations.SimonDecInvertsEnc := by
  unfold Obligations.SimonDecInvertsEnc
  exact ⟨fun n T k ks x y b => ⟨rfl, rfl, rfl, rfl, rfl, rfl⟩,
    fun n k b => ⟨rndInv_rnd n k b, rnd_rndInv n k b⟩,
    fun n T k b => ⟨simonDec_simonEnc n k T b, simonEnc_simonDec n k T b⟩⟩

/-! ### The paired convention -/

/-- A pair keeps both words in place where two rounds swap them twice (R187). -/
theorem pairEnc_eq (n : Nat) (k : List Word) (i : Nat) (b : Block) :
    pairEnc n k i b = rnd n (rkAt k (i + 1)) (rnd n (rkAt k i) b) := rfl

theorem pairDec_eq (n : Nat) (k : List Word) (i : Nat) (b : Block) :
    pairDec n k i b = rndInv n (rkAt k i) (rndInv n (rkAt k (i + 1)) b) := rfl

theorem pairedEnc_eq (n : Nat) (k : List Word) (pairs : Nat) (b : Block) :
    pairedEnc n k pairs b = simonEnc n k (2 * pairs) b := by
  induction pairs with
  | zero => rfl
  | succ pairs ih => rw [pairedEnc, ih, pairEnc_eq, Nat.mul_succ, simonEnc, simonEnc]

theorem pairedDec_eq (n : Nat) (k : List Word) (pairs : Nat) (b : Block) :
    pairedDec n k pairs b = simonDec n k (2 * pairs) b := by
  induction pairs generalizing b with
  | zero => rfl
  | succ pairs ih => rw [pairedDec, ih, pairDec_eq, Nat.mul_succ, simonDec, simonDec]

/-- The one odd round count of the table, 69, needs EXT_CONFIGS (R120). -/
theorem rounds_even_of_default_row :
    ∀ r ∈ configTable, r.needsExt = false → r.rounds % 2 = 0 := by decide

/-- Settles O38: a pair is two rounds, so `pairs` pairs are `2 * pairs` rounds; a default build accepts
only rows that do not need EXT_CONFIGS. -/
theorem pairedRoundsAgree : Obligations.PairedRoundsAgree := by
  unfold Obligations.PairedRoundsAgree
  refine ⟨fun n pairs k b => ⟨pairedEnc_eq n k pairs b, pairedDec_eq n k pairs b⟩,
    fun p hp r hr => ?_⟩
  obtain ⟨hrow, -, hdefault⟩ := mem_acceptedRows_iff.mp hr
  exact rounds_even_of_default_row r hrow (hdefault.resolve_right (by simp [hp]))

/-! ### ROUND_ENC and ROUND_DEC -/

theorem arg0Ok_eq_false_iff {s : State} : arg0Ok s = false ↔ 2 ^ bitsOf s ≤ s.arg0.toNat := by
  simp [arg0Ok, isWord]

theorem arg1Ok_eq_false_iff {s : State} : arg1Ok s = false ↔ 2 ^ bitsOf s ≤ s.arg1.toNat := by
  simp [arg1Ok, isWord]

/-- The common checks of ROUND_ENC and ROUND_DEC, in their order, with the ARG test by value (R184,
R185). -/
theorem roundCheck_eq (i : Nat) (s : State) : roundCheck i s =
    if s.keyValid = false then some .noKey
    else if cfgRounds s ≤ i ∨ 2 ^ bitsOf s ≤ s.arg0.toNat ∨ 2 ^ bitsOf s ≤ s.arg1.toNat then
      some .badOperand
    else none := by
  simp only [← arg0Ok_eq_false_iff, ← arg1Ok_eq_false_iff]
  rcases roundCheck_cases i s with ⟨hkey, h⟩ | ⟨hkey, hbad, h⟩ | ⟨hkey, hi, h0, h1, h⟩
  · rw [h, if_pos hkey]
  · rw [h, if_neg (by simp [hkey]), if_pos hbad]
  · rw [h, if_neg (by simp [hkey]), if_neg (by simp [hi, h0, h1])]

theorem roundCheck_noKey {s : State} (i : Nat) (hkey : s.keyValid = false) :
    roundCheck i s = some .noKey := by
  rw [roundCheck_eq, if_pos hkey]

theorem roundCheck_badOperand {s : State} {i : Nat} (hkey : s.keyValid = true)
    (hbad : cfgRounds s ≤ i ∨ 2 ^ bitsOf s ≤ s.arg0.toNat ∨ 2 ^ bitsOf s ≤ s.arg1.toNat) :
    roundCheck i s = some .badOperand := by
  rw [roundCheck_eq, if_neg (by simp [hkey]), if_pos hbad]

theorem roundCheck_eq_none {s : State} {i : Nat} (hkey : s.keyValid = true) (hi : i < cfgRounds s)
    (h0 : s.arg0.toNat < 2 ^ bitsOf s) (h1 : s.arg1.toNat < 2 ^ bitsOf s) :
    roundCheck i s = none := by
  rw [roundCheck_eq, if_neg (by simp [hkey]), if_neg (by omega)]

/-- Settles O44: the checks select the outcome, and the result is the round of (ARG0, ARG1). -/
theorem roundEncCommand : Obligations.RoundEncCommand := by
  unfold Obligations.RoundEncCommand
  exact fun s i => ⟨fun hkey => execRoundEnc_raise (roundCheck_noKey i hkey),
    fun hkey hbad => execRoundEnc_raise (roundCheck_badOperand hkey hbad),
    fun hkey hi h0 h1 => execRoundEnc_ok (roundCheck_eq_none hkey hi h0 h1)⟩

/-- Settles O45: the checks are those of ROUND_ENC, and the result is the inverse round. -/
theorem roundDecCommand : Obligations.RoundDecCommand := by
  unfold Obligations.RoundDecCommand
  exact fun s i => ⟨fun hkey => execRoundDec_raise (roundCheck_noKey i hkey),
    fun hkey hbad => execRoundDec_raise (roundCheck_badOperand hkey hbad),
    fun hkey hi h0 h1 => execRoundDec_ok (roundCheck_eq_none hkey hi h0 h1)⟩

/-! ### The scramble function on the corner cases -/

theorem rotl_zero_word (n s : Nat) : rotl n 0 s = 0 := by
  simp [rotl, maskN]

theorem scramble_zero (n : Nat) : scramble n 0 = 0 := by
  simp only [scramble, rotl_zero_word]
  rfl

/-- Every bit of the field is set, so a rotation changes none (R142). -/
theorem rotl_ones {n s : Nat} (hn : n ≤ 64) (hs : s < n) :
    rotl n (BitVec.ofNat 64 (2 ^ n - 1)) s = BitVec.ofNat 64 (2 ^ n - 1) := by
  have hw : isWord n (BitVec.ofNat 64 (2 ^ n - 1)) = true :=
    isWord_ofNat (Nat.sub_one_lt (Nat.two_pow_pos n).ne')
  have hbit : ∀ i, i < n → (BitVec.ofNat 64 (2 ^ n - 1)).getLsbD i = true := fun i hi => by
    rw [BitVec.getLsbD_ofNat, Nat.testBit_two_pow_sub_one]
    simp [hi, hi.trans_le hn]
  refine word_ext (rotl_isWord hn hw) hw fun i hi => ?_
  rw [rotl_getLsbD_mod hn hs hw hi, hbit i hi, hbit _ (Nat.mod_lt _ (by omega))]

/-- The AND term is all ones, and so is the term added to it (R180). -/
theorem scramble_ones {n : Nat} (hn : n ≤ 64) (h8 : 8 < n) :
    scramble n (BitVec.ofNat 64 (2 ^ n - 1)) = 0 := by
  rw [scramble, rotl_ones hn (by omega), rotl_ones hn h8, rotl_ones hn (by omega), BitVec.and_self]
  exact BitVec.xor_self

theorem ofNat_two_pow (p : Nat) : BitVec.ofNat 64 (2 ^ p) = BitVec.twoPow 64 p := by
  apply BitVec.eq_of_toNat_eq
  rw [BitVec.toNat_ofNat, BitVec.toNat_twoPow]

theorem isWord_twoPow {n p : Nat} (hp : p < n) : isWord n (BitVec.twoPow 64 p) = true :=
  isWord_iff_bits.mpr fun i hi => by
    rw [BitVec.getLsbD_twoPow, decide_eq_false (by omega : p ≠ i), Bool.and_false]

/-- A rotation moves the only bit of a power of two (R142). -/
theorem rotl_twoPow {n s p : Nat} (hn : n ≤ 64) (hs : s < n) (hp : p < n) :
    rotl n (BitVec.twoPow 64 p) s = BitVec.twoPow 64 ((p + s) % n) := by
  have hpos : (p + s) % n < n := Nat.mod_lt _ (by omega)
  refine word_ext (rotl_isWord hn (isWord_twoPow hp)) (isWord_twoPow hpos) fun i hi => ?_
  have hmoved : p = (i + n - s) % n ↔ (p + s) % n = i := by
    constructor
    · rintro rfl
      exact add_sub_mod_add_mod hi hs
    · rintro rfl
      exact (add_mod_add_sub_mod hp hs).symm
  rw [rotl_getLsbD_mod hn hs (isWord_twoPow hp) hi, BitVec.getLsbD_twoPow, BitVec.getLsbD_twoPow]
  simp [hmoved, hp.trans_le hn, hpos.trans_le hn]

theorem twoPow_and_twoPow_of_ne {a b : Nat} (h : a ≠ b) :
    BitVec.twoPow 64 a &&& BitVec.twoPow 64 b = 0#64 := by
  rw [BitVec.twoPow_and, BitVec.getLsbD_twoPow]
  simp [Ne.symm h]

/-- The AND term of a single bit is 0, because its two rotations put the bit 7 positions apart (R180). -/
theorem scramble_twoPow {n p : Nat} (hn : n ≤ 64) (h8 : 8 < n) (hp : p < n) :
    scramble n (BitVec.twoPow 64 p) = BitVec.twoPow 64 ((p + 2) % n) := by
  have hne : (p + 1) % n ≠ (p + 8) % n := fun h => by
    have h18 : 1 % n = 8 % n := Nat.ModEq.add_left_cancel' p h
    rw [Nat.mod_eq_of_lt (by omega), Nat.mod_eq_of_lt h8] at h18
    omega
  rw [scramble, rotl_twoPow hn (by omega) hp, rotl_twoPow hn h8 hp, rotl_twoPow hn (by omega) hp,
    twoPow_and_twoPow_of_ne hne, BitVec.zero_xor]

theorem scramble_one {n : Nat} (hn : n ≤ 64) (h8 : 8 < n) : scramble n 1 = 4 := by
  have h := scramble_twoPow hn h8 (p := 0) (by omega)
  rwa [Nat.zero_add, Nat.mod_eq_of_lt (by omega)] at h

theorem scramble_highBit {n : Nat} (hn : n ≤ 64) (h8 : 8 < n) :
    scramble n (BitVec.ofNat 64 (2 ^ (n - 1))) = 2 := by
  have hpos : (n - 1 + 2) % n = 1 := by
    rw [show n - 1 + 2 = 1 + n by omega, Nat.add_mod_right, Nat.mod_eq_of_lt (by omega)]
  rw [ofNat_two_pow, scramble_twoPow hn h8 (by omega), hpos]
  rfl

/-! ### SCRAMBLE -/

/-- Settles O46: the ARG0 test selects the outcome, and the facts about `f_n` hold of every n from 9 to
64. -/
theorem scrambleCommand : Obligations.ScrambleCommand := by
  unfold Obligations.ScrambleCommand
  refine ⟨fun s => ?command, fun p => ?function⟩
  case command =>
    simp only [execScramble_cases, arg0Ok_eq_false_iff]
    refine ⟨fun hbad => by rw [if_pos hbad], fun hok => ?_⟩
    rw [if_neg (by omega)]
    rfl
  case function =>
    have hn : wordBits p ≤ 64 := wordBits_le p
    have h8 : 8 < wordBits p := Nat.lt_of_lt_of_le (by decide) (wordBits_ge p)
    exact ⟨fun x _ => scramble_isWord hn x, scramble_zero _, scramble_ones hn h8, scramble_one hn h8,
      scramble_highBit hn h8⟩

end Sys2Proof.Machine
end

section
/-! Proofs: ENCRYPT and DECRYPT (spec/45_cipher_facade.md, R200 and R201). -/

namespace Sys2Proof.Machine

/-! ### What ENCRYPT and DECRYPT share -/

theorem blockCheck_noKey {s : State} (len : Nat) (hkey : s.keyValid = false) :
    blockCheck len s = some .noKey := by
  simp [blockCheck, hkey]

theorem blockCheck_blockSize {s : State} {len : Nat} (hkey : s.keyValid = true)
    (hlen : len ≠ blockBytes s.params) : blockCheck len s = some .blockSize := by
  simp [blockCheck, hkey, hlen]

/-- A completion that writes a block changes DOUT, with WB also DIN, and nothing else but BUSY and DONE
(R38, R39, R200). -/
theorem writesBlock_finish_setOut (out : List Byte) (wb : Bool) (s : State) :
    WritesBlock out wb s (finish (setOut out wb s)) :=
  ⟨rfl, fun _ hj => setOut_doutByte out wb s hj, fun _ hj => setOut_dinByte out wb s hj⟩

/-! ### The rounds as a trace -/

theorem encTrace_simonEnc (n : Nat) (k : List Word) (T : Nat) (b : Block) :
    EncTrace n k T fun i => simonEnc n k i b :=
  fun _ _ => ⟨rfl, rfl⟩

theorem decTrace_of_rndInv {n T : Nat} {k : List Word} {b : Nat → Block}
    (h : ∀ i, i < T → b i = rndInv n (rkAt k i) (b (i + 1))) : DecTrace n k T b :=
  fun i hi => ⟨congrArg Block.x (h i hi), congrArg Block.y (h i hi)⟩

/-- The blocks between forward rounds, read from the last to the first, are the blocks between inverse
rounds, because an inverse round undoes its forward round (R182, R183). -/
theorem decTrace_simonEnc (n : Nat) (k : List Word) (T : Nat) (b : Block) :
    DecTrace n k T fun i => simonEnc n k i b :=
  decTrace_of_rndInv fun i _ => (rndInv_rnd n (rkAt k i) (simonEnc n k i b)).symm

/-! ### ENCRYPT and DECRYPT -/

/-- Settles O49: the checks select the outcome, and the trace is Simon_enc over its first rounds. -/
theorem encryptCommand : Obligations.EncryptCommand := by
  unfold Obligations.EncryptCommand
  intro s len wb
  refine ⟨fun hkey => execEncrypt_raise (blockCheck_noKey len hkey),
    fun hkey hlen => execEncrypt_raise (blockCheck_blockSize hkey hlen), fun hkey hlen => ?_⟩
  refine ⟨_, fun i => simonEnc (bitsOf s) s.rk i (dinBlock s),
    execEncrypt_ok (blockCheck_eq_none hkey hlen), rfl, ?trace, ?writes⟩
  case trace => exact encTrace_simonEnc (bitsOf s) s.rk (cfgRounds s) (dinBlock s)
  case writes => exact writesBlock_finish_setOut _ wb s

/-- Settles O50: the checks are those of ENCRYPT. The trace runs forward from the decrypted block, and
Simon_enc takes that block back to the input at its end. -/
theorem decryptCommand : Obligations.DecryptCommand := by
  unfold Obligations.DecryptCommand
  intro s len wb
  refine ⟨fun hkey => execDecrypt_raise (blockCheck_noKey len hkey),
    fun hkey hlen => execDecrypt_raise (blockCheck_blockSize hkey hlen), fun hkey hlen => ?_⟩
  refine ⟨_, fun i => simonEnc (bitsOf s) s.rk i
      (simonDec (bitsOf s) s.rk (cfgRounds s) (dinBlock s)),
    execDecrypt_ok (blockCheck_eq_none hkey hlen), ?input, ?trace, ?writes⟩
  case input => exact simonEnc_simonDec (bitsOf s) s.rk (cfgRounds s) (dinBlock s)
  case trace => exact decTrace_simonEnc (bitsOf s) s.rk (cfgRounds s) _
  case writes => exact writesBlock_finish_setOut _ wb s

end Sys2Proof.Machine
end

section
/-! Proofs: error reports, the order of a completion and a transfer in one cycle, and the interrupt output
(spec/60_exceptions.md, R222, R223, R225 and R230). -/

namespace Sys2Proof.Machine

/-! ### Transfers of registers that are open at any time -/

/-- Outside the results a read of a register's offset returns its value at any time (R48, R60). -/
theorem reads_of_regAt {off : Offset} {r : Reg} (hr : regAt off = r) (h : r.openWhileBusy = false)
    (s : State) : reads off (readReg r s) s := by
  subst hr
  exact reads_defined h

/-- A write to a register that is neither read-only nor locked is the store at any time (R24, R48). -/
theorem busWrite_unlocked {off : Offset} {r : Reg} (hr : regAt off = r)
    (hrej : r.rejectsWrites = false) (hlock : r.locked = false) (v : Reg32) (s : State) :
    busWrite off v s = storeReg r v s := by
  subst hr
  exact busWrite_stored v hrej (.inr hlock)

/-! ### A completion and a transfer in one cycle -/

/-- A cycle with a completion is the completion, which ends with BUSY = 0, and then the transfer (R225). -/
theorem step_of_completion {s : State} {c : Cycle} {rest : List Cycle} (hbusy : s.busy = true)
    (hrst : c.rstN = true) (hengine : c.engine = true) (hscript : s.script = c :: rest) :
    ∃ u, completePending { s with script := rest, rdata := none } = .next u ∧ u.busy = false ∧
      step s = .next (busPhase c u) := by
  have hphase : enginePhase c { s with script := rest, rdata := none } =
      completePending { s with script := rest, rdata := none } := enginePhase_of_busy hengine hbusy
  obtain ⟨u, hu, hidle, -⟩ :=
    enginePhase_busy (s := { s with script := rest, rdata := none }) hengine hbusy
  exact ⟨u, hphase ▸ hu, hidle, by rw [step_of_script hscript hrst, hu, mapNext_next]⟩

/-- Bit 0 of STATUS as read is BUSY (R34). -/
theorem statusWord_bit_zero (s : State) : (statusWord s).getLsbD 0 = s.busy := by
  simp only [statusWord, BitVec.getLsbD_or, BitVec.getLsbD_shiftLeft, flagBit_getLsbD, Nat.reduceLT]
  simp

/-- Settles O8: the transfer acts on the result of the completion, where BUSY = 0. -/
theorem completionBeforeTransfer : Obligations.CompletionBeforeTransfer := by
  unfold Obligations.CompletionBeforeTransfer
  refine ⟨fun s c rest hbusy hrst hengine hscript => ?order,
    fun s off v rest hbusy hoff hscript => ?cmdWrite,
    fun s off v rest hbusy hoff hscript => ?statusRead⟩
  case order =>
    obtain ⟨u, hu, -, hstep⟩ := step_of_completion hbusy hrst hengine hscript
    exact ⟨u, hu, hstep⟩
  case cmdWrite =>
    obtain ⟨u, -, hidle, hstep⟩ := step_of_completion hbusy rfl rfl hscript
    have hissue : busPhase ⟨true, true, true, off, v, true⟩ u = issue v u :=
      issueCommand u off v hidle hoff
    exact ⟨issue v u, hissue ▸ hstep, issue_busy v u, issue_pending v u⟩
  case statusRead =>
    obtain ⟨u, -, hidle, hstep⟩ := step_of_completion hbusy rfl rfl hscript
    have hread : reads off (statusWord u) u := reads_of_regAt ((regAt_status_iff off).mpr hoff) rfl u
    exact ⟨busRead off u, statusWord u, hstep, hread, (statusWord_bit_zero u).trans hidle⟩

/-! ### Error reports -/

/-- Settles O18: the first report is kept, a later one changes nothing; the two kinds of erroring write
and the completion of a raise are such reports. -/
theorem erroringWriteOnlyReports : Obligations.ErroringWriteOnlyReports := by
  unfold Obligations.ErroringWriteOnlyReports
  exact ⟨fun e info s => ⟨fun h => reportError_first h e info, fun h => reportError_later h e info⟩,
    fun s off v hoff => busWrite_rejected v ((readOnlyOffset_iff off).mp hoff),
    fun s off v hoff hbusy => busWrite_locked v ((lockedOffset_iff off).mp hoff) hbusy,
    complete_raised⟩

/-! ### The interrupt output -/

/-- A STATUS write is accepted at any time (R24, R34). -/
theorem busWrite_status {off : Offset} (hoff : off &&& 0xFC = 0x10) (v : Reg32) (s : State) :
    busWrite off v s = writeStatus v s :=
  busWrite_unlocked ((regAt_status_iff off).mpr hoff) rfl rfl v s

/-- Each source of the interrupt is cleared by its own bit of a STATUS write (R227, R230). -/
theorem irq_writeStatus (v : Reg32) (s : State) : irq (writeStatus v s) =
    ((s.doneIE && s.done && !v.getLsbD 2) || (s.errIE && s.err && !v.getLsbD 3)) := by
  simp only [irq, writeStatus_doneIE, writeStatus_done, writeStatus_errIE, writeStatus_err,
    Bool.and_assoc]

/-- Issue clears the completion source alone (R100, R230). -/
theorem irq_issue (v : Reg32) (s : State) : irq (issue v s) = (s.errIE && s.err) := by
  simp [irq]

/-- Settles O29: the effect of each of the three writes on the flags and the enables. -/
theorem interruptOutput : Obligations.InterruptOutput := by
  unfold Obligations.InterruptOutput
  refine ⟨irq_iff, fun s v hv => ?clearsDone, fun s v hv => ?clearsErr, fun s v hv => ?enables,
    fun s v hidle => ?issues, fun p => rfl⟩
  case clearsDone =>
    rw [busWrite_status (by decide), irq_writeStatus, hv, Bool.not_true, Bool.and_false,
      Bool.false_or]
  case clearsErr =>
    rw [busWrite_status (by decide), irq_writeStatus, hv, Bool.not_true, Bool.and_false,
      Bool.or_false]
  case enables =>
    rw [busWrite_ctrl (by decide), writeCtrl_enables hv]
    rfl
  case issues =>
    rw [issueCommand s 0x14 v hidle (by decide)]
    exact irq_issue v s

end Sys2Proof.Machine
end

section
/-! Proofs: the words written out bit by bit, and decoding and encoding as inverse maps
(spec/30_encoding.md, R80 to R90). -/

namespace Sys2Proof.Machine

/-! ### Decoding after encoding -/

/-- Settles O1: per command the word matches its row, and the fields of the row read the operands back. -/
theorem decodeOfEncode : Obligations.DecodeOfEncode := by
  unfold Obligations.DecodeOfEncode
  intro i
  cases i with
  | nop => exact Laws.RoundTrip.nop
  | loadKey len => exact Laws.RoundTrip.loadKey len
  | encrypt len wb => exact Laws.RoundTrip.encrypt len wb
  | decrypt len wb => exact Laws.RoundTrip.decrypt len wb
  | clearKey => exact Laws.RoundTrip.clearKey
  | rkRead i => exact Laws.RoundTrip.rkRead i
  | roundEnc i => exact Laws.RoundTrip.roundEnc i
  | roundDec i => exact Laws.RoundTrip.roundDec i
  | rotl s => exact Laws.RoundTrip.rotl s
  | rotr s => exact Laws.RoundTrip.rotr s
  | scramble => exact Laws.RoundTrip.scramble
  | zbit i kw => exact Laws.RoundTrip.zbit i kw

/-! ### Encoding after decoding -/

/-- A word is its bits under a mask together with those outside it. -/
theorem and_or_and_not (w m : Reg32) : (w &&& m) ||| (w &&& ~~~m) = w := by
  rw [← BitVec.and_or_distrib_left, BitVec.or_not_self, BitVec.and_allOnes]

@[simp] theorem fitsImm8_imm8Of (w : Reg32) : fitsImm8 (imm8Of w) = true :=
  Laws.RoundTrip.fitsImm8_iff.mpr (imm8Of_lt w)

@[simp] theorem fitsKw_kwOf (w : Reg32) : fitsKw (kwOf w) = true :=
  Laws.RoundTrip.fitsKw_iff.mpr (kwOf_lt w)

/-- A row's fields are as wide as R90 requires, whatever the word. -/
theorem build_wellFormed {r : OpcodeRow} (hr : r ∈ opcodeRows) (w : Reg32) :
    (r.build w).wellFormed = true := by
  simp only [opcodeRows, List.mem_cons, List.not_mem_nil, or_false] at hr
  rcases hr with rfl | rfl | rfl | rfl | rfl | rfl | rfl | rfl | rfl | rfl | rfl | rfl <;>
    simp [Instr.wellFormed]

theorem encodeImm_imm8Of {op : Nat} {w : Reg32} (h : w &&& 0xFFFF00FF = BitVec.ofNat 32 op) :
    encodeImm op (imm8Of w) = w := by
  rw [encodeImm, imm8Of_shifted, ← h]
  exact and_or_and_not w 0xFFFF00FF

/-- The bits outside the mask of ENCRYPT and DECRYPT are the IMM8 field and the WB bit (R86). -/
theorem encodeBlock_imm8Of_wbOf {op : Nat} {w : Reg32}
    (h : w &&& 0xFEFF00FF = BitVec.ofNat 32 op) :
    encodeImm op (imm8Of w) ||| encodeWb (wbOf w) = w := by
  rw [encodeImm, imm8Of_shifted, wbOf_shifted, ← h, BitVec.or_assoc, ← BitVec.and_or_distrib_left]
  exact and_or_and_not w 0xFEFF00FF

/-- The bits outside the mask of ZBIT are the IMM8 field and the KW field (R86). -/
theorem encodeZbit_imm8Of_kwOf {op : Nat} {w : Reg32} (h : w &&& 0xFFF800FF = BitVec.ofNat 32 op) :
    encodeImm op (imm8Of w) ||| (BitVec.ofNat 32 (kwOf w) <<< 16) = w := by
  rw [encodeImm, imm8Of_shifted, kwOf_shifted, ← h, BitVec.or_assoc, ← BitVec.and_or_distrib_left]
  exact and_or_and_not w 0xFFF800FF

/-- A word that matches a row is the word of the row's command: the mask fixes the bits outside the
fields (R86). -/
theorem encode_build {w : Reg32} {r : OpcodeRow} (hr : r ∈ opcodeRows) (h : w &&& r.mask = r.mtch) :
    encode (r.build w) = w := by
  simp only [opcodeRows, List.mem_cons, List.not_mem_nil, or_false] at hr
  rcases hr with rfl | rfl | rfl | rfl | rfl | rfl | rfl | rfl | rfl | rfl | rfl | rfl
  · exact h.symm.trans (and_allBits w)
  · exact encodeImm_imm8Of h
  · exact encodeBlock_imm8Of_wbOf h
  · exact encodeBlock_imm8Of_wbOf h
  · exact h.symm.trans (and_allBits w)
  · exact encodeImm_imm8Of h
  · exact encodeImm_imm8Of h
  · exact encodeImm_imm8Of h
  · exact encodeImm_imm8Of h
  · exact encodeImm_imm8Of h
  · exact h.symm.trans (and_allBits w)
  · exact encodeZbit_imm8Of_kwOf h

/-- Settles O2: a decoded word matches a row and is built by it. -/
theorem encodeOfDecode : Obligations.EncodeOfDecode := by
  unfold Obligations.EncodeOfDecode
  intro w i h
  obtain ⟨r, hr, hmatch, rfl⟩ := match_of_decode h
  exact ⟨build_wellFormed hr w, encode_build hr hmatch⟩

/-! ### Words written out -/

/-- Settles O5: each word matches the row with its OP as index. -/
theorem specWordsDecode : Obligations.SpecWordsDecode := by
  unfold Obligations.SpecWordsDecode
  exact ⟨decode_of_match_index (k := 1) (by decide) (by decide),
    decode_of_match_index (k := 2) (by decide) (by decide),
    decode_of_match_index (k := 3) (by decide) (by decide),
    decode_of_match_index (k := 5) (by decide) (by decide),
    decode_of_match_index (k := 8) (by decide) (by decide),
    decode_of_match_index (k := 11) (by decide) (by decide)⟩

end Sys2Proof.Machine
end

section
/-! Proofs: what the two halves of a cycle can do, said once for the rules over whole steps
(spec/40_command_model.md, R102 to R104, and spec/20_memory.md, R60 to R70). -/

namespace Sys2Proof.Machine

/-! ### The transfer of a cycle -/

/-- What the transfer of a cycle can do. -/
inductive TransferEffect (c : Cycle) (s : State) : State → Prop where
  /-- No transfer. -/
  | idle : c.sel = false → TransferEffect c s s
  /-- A write that only reports an error (R223). -/
  | error (e : ErrCode) : c.sel = true → c.write = true → e ≠ .none →
      ((regAt c.addr).rejectsWrites = true ∨ s.busy = true ∧ (regAt c.addr).locked = true) →
      TransferEffect c s (writeErrorState e c.addr s)
  /-- An accepted write. -/
  | store (t : State) : c.sel = true → c.write = true →
      (s.busy = false ∨ (regAt c.addr).locked = false) → StoreEffect c.wdata s (regAt c.addr) t →
      TransferEffect c s t
  /-- A read (R70). -/
  | read (v : Reg32) (d : Nat) : c.sel = true → c.write = false →
      TransferEffect c s { s with rdata := some v, draws := d }

/-- A write is rejected, or finds a locked register, or is accepted (R24, R48). -/
theorem write_rejected_locked_or_accepted (r : Reg) (s : State) :
    r.rejectsWrites = true ∨ (s.busy = true ∧ r.locked = true) ∨
    (r.rejectsWrites = false ∧ (s.busy = false ∨ r.locked = false)) := by
  cases r.rejectsWrites <;> cases s.busy <;> cases r.locked <;> decide

theorem busPhase_effect (c : Cycle) (s : State) : TransferEffect c s (busPhase c s) := by
  rcases busPhase_cases c s with ⟨hsel, h⟩ | ⟨hsel, hwrite, h⟩ | ⟨hsel, hwrite, h⟩ <;> rw [h]
  · exact .idle hsel
  · rcases write_rejected_locked_or_accepted (regAt c.addr) s with hrej | ⟨hbusy, hlock⟩ | ⟨hrej, hopen⟩
    · rw [busWrite_rejected c.wdata hrej]
      exact .error _ hsel hwrite (by decide) (.inl hrej)
    · rw [busWrite_locked c.wdata hlock hbusy]
      exact .error _ hsel hwrite (by decide) (.inr ⟨hbusy, hlock⟩)
    · rw [busWrite_stored c.wdata hrej hopen]
      exact .store _ hsel hwrite hopen (storeReg_effect hrej c.wdata s)
  · obtain ⟨v, d, h⟩ := busRead_frame c.addr s
    rw [h]
    exact .read v d hsel hwrite

/-! ### The engine's part of a cycle -/

/-- What the engine's part of a cycle can do. -/
inductive EngineEffect (c : Cycle) (s : State) : State → Prop where
  /-- Nothing: Complete does not fall in the cycle, or no command is pending (R102). -/
  | idle : (c.engine = false ∨ s.busy = false) → EngineEffect c s s
  /-- The pending word is no command (R87). -/
  | illegal : c.engine = true → s.busy = true → EngineEffect c s (commandErrorState .illegalCmd s)
  /-- The pending command completes (R104). -/
  | command (i : Instr) (t : State) : c.engine = true → s.busy = true → decode s.pending = .ok i →
      CommandEffect i s t → EngineEffect c s t

theorem enginePhase_effect {c : Cycle} {s u : State} (h : enginePhase c s = .next u) :
    EngineEffect c s u := by
  rcases enginePhase_cases c s with ⟨hengine, hbusy, hphase⟩ | ⟨hno, hphase⟩ <;> rw [hphase] at h
  · obtain ⟨t, ht, he⟩ := completePending_next s
    obtain rfl := Host.Outcome.next.inj (ht.symm.trans h)
    rcases he with ⟨-, rfl⟩ | ⟨i, hi, -, he⟩
    · exact .illegal hengine hbusy
    · exact .command i t hengine hbusy hi he
  · obtain rfl := Host.Outcome.next.inj h
    exact .idle hno

theorem EngineEffect.eq_of_not_completes {c : Cycle} {s u : State} (he : EngineEffect c s u)
    (h : ¬ (s.busy = true ∧ c.engine = true)) : u = s := by
  cases he with
  | idle => rfl
  | illegal hengine hbusy => exact absurd ⟨hbusy, hengine⟩ h
  | command i u hengine hbusy => exact absurd ⟨hbusy, hengine⟩ h

/-! ### A step -/

/-- A cycle that does not reset the core has `rst_n` = 1, and makes no CTRL write with bit 31 = 1. -/
theorem resetsInCycle_eq_false_iff {c : Cycle} : resetsInCycle c = false ↔
    c.rstN = true ∧ ¬ (c.sel = true ∧ c.write = true ∧ regAt c.addr = .ctrl ∧
      c.wdata.getLsbD 31 = true) := by
  rw [regAt_ctrl_iff]
  simp [resetsInCycle, and_assoc]

theorem not_softReset_of_write {c : Cycle} (hr : resetsInCycle c = false) (hsel : c.sel = true)
    (hwrite : c.write = true) : ¬ (regAt c.addr = .ctrl ∧ c.wdata.getLsbD 31 = true) :=
  fun h => (resetsInCycle_eq_false_iff.mp hr).2 ⟨hsel, hwrite, h⟩

/-- A step without a reset is the engine's part of its cycle and then the transfer (R225). -/
theorem step_effects {s t : State} (h : step s = .next t) (hr : resetsInCycle (nextCycle s) = false) :
    ∃ u, EngineEffect (nextCycle s) (beginCycle s) u ∧ TransferEffect (nextCycle s) u t := by
  rcases step_cases h with ⟨hrst, -⟩ | ⟨-, u, hu, rfl⟩
  · rw [(resetsInCycle_eq_false_iff.mp hr).1] at hrst
    cases hrst
  · exact ⟨u, enginePhase_effect hu, busPhase_effect _ u⟩

/-- Settles O10: a step is a reset, or a completion, which always answers a state, and a transfer. -/
theorem stepAlwaysNext : Obligations.StepAlwaysNext := by
  unfold Obligations.StepAlwaysNext
  intro s
  rw [step, clockEdge]
  split
  · obtain ⟨u, hu⟩ := enginePhase_next (nextCycle s) (beginCycle s)
    exact ⟨_, by rw [hu, mapNext_next]⟩
  · exact ⟨_, rfl⟩

end Sys2Proof.Machine
end

section
/-! Proofs: the invariant of the core (spec/10_state.md, R36 to R50). -/

namespace Sys2Proof.Machine

/-! ### The operations keep the invariant -/

theorem all_isWord_replicate_zero (n len : Nat) : (List.replicate len 0).all (isWord n) = true := by
  simp only [List.all_replicate, isWord_zero, ite_self]

theorem coreInv_resetOf (p : Params) : CoreInv (State.resetOf p) where
  rkMasked := all_isWord_replicate_zero _ _
  resMasked := ⟨isWord_zero _, isWord_zero _⟩
  rkLength := List.length_replicate
  doutHigh j _ _ := byteAt_replicate_zero 4 j
  unkeyed _ := ⟨rfl, rfl⟩
  keyed h := Bool.noConfusion h
  noError _ := ⟨rfl, rfl⟩
  someError h := Bool.noConfusion h
  busyNotDone h := Bool.noConfusion h.1

/-- The invariant reads none of the enables, the operands, the latch and the model's own fields. -/
theorem CoreInv.congr {s : State} (h : CoreInv s) (doneIE errIE : Bool) (key : Vector Reg32 8)
    (din : Vector Reg32 4) (arg0 arg1 : Word) (script : List Cycle) (rdata : Option Reg32)
    (draws : Nat) : CoreInv { s with doneIE, errIE, key, din, arg0, arg1, script, rdata, draws } :=
  { h with }

theorem CoreInv.resetCore (s : State) : CoreInv (resetCore s) :=
  (coreInv_resetOf s.params).congr _ _ _ _ _ _ s.script s.rdata s.draws

theorem CoreInv.finish {s : State} (h : CoreInv s) : CoreInv (finish s) :=
  { h with busyNotDone := fun hb => Bool.noConfusion hb.1 }

theorem CoreInv.issue {s : State} (h : CoreInv s) (v : Reg32) : CoreInv (issue v s) :=
  { h with busyNotDone := fun hb => Bool.noConfusion hb.2 }

theorem CoreInv.reportError {s : State} (h : CoreInv s) {e : ErrCode} (he : e ≠ .none)
    (info : Reg32) : CoreInv (reportError e info s) :=
  { h with
    noError := fun herr => Bool.noConfusion herr
    someError := fun _ => by
      rw [reportError_errCode]
      split
      · exact h.someError ‹_›
      · exact he }

theorem CoreInv.writeErrorState {s : State} (h : CoreInv s) {e : ErrCode} (he : e ≠ .none)
    (off : Offset) : CoreInv (writeErrorState e off s) :=
  h.reportError he _

theorem CoreInv.commandErrorState {s : State} (h : CoreInv s) {e : ErrCode} (he : e ≠ .none) :
    CoreInv (commandErrorState e s) :=
  (h.reportError he s.pending).finish

/-- Bit 3 clears the record together with ERR, and leaves both otherwise (R34). -/
theorem CoreInv.writeStatus {s : State} (h : CoreInv s) (v : Reg32) : CoreInv (writeStatus v s) :=
  { h with
    noError := fun herr => by
      rw [writeStatus_errCode, writeStatus_errInfo]
      split
      · exact ⟨rfl, rfl⟩
      · next hv =>
        rw [writeStatus_err, Bool.eq_false_iff.mpr hv, Bool.not_false, Bool.and_true] at herr
        exact h.noError herr
    someError := fun herr => by
      obtain ⟨hs, hv⟩ := Bool.and_eq_true_iff.mp herr
      rw [writeStatus_errCode, if_neg (by simpa only [Bool.not_eq_true', Bool.not_eq_true] using hv)]
      exact h.someError hs
    busyNotDone := fun hb => h.busyNotDone ⟨hb.1, (Bool.and_eq_true_iff.mp hb.2).1⟩ }

theorem CoreInv.dropKey {s : State} (h : CoreInv s) : CoreInv (dropKey s) :=
  { h with
    rkMasked := all_isWord_replicate_zero _ _
    rkLength := List.length_replicate
    unkeyed := fun _ => ⟨rfl, rfl⟩
    keyed := fun hk => Bool.noConfusion hk }

theorem CoreInv.setRes0 {s : State} (h : CoreInv s) {v : Word} (hv : isWord (bitsOf s) v = true) :
    CoreInv (setRes0 v s) :=
  { h with resMasked := ⟨hv, h.resMasked.2⟩ }

theorem CoreInv.setRes {s : State} (h : CoreInv s) {v w : Word} (hv : isWord (bitsOf s) v = true)
    (hw : isWord (bitsOf s) w = true) : CoreInv (setRes v w s) :=
  { h with resMasked := ⟨hv, hw⟩ }

theorem CoreInv.setOut {s : State} (h : CoreInv s) (out : List Byte) (wb : Bool) :
    CoreInv (setOut out wb s) :=
  { h with
    doutHigh := fun j hj hb => by
      rw [setOut_doutByte out wb s hj]
      exact if_neg (Nat.not_lt.mpr hb) }

/-- An accepted configuration fills the round-key file exactly (R43, R160). -/
theorem CoreInv.loadKeyState {s : State} (h : CoreInv s) {r : ConfigRow}
    (hr : r ∈ acceptedRows s.params) :
    CoreInv (loadKeyState r.keyWords r.rounds r.zsel s) := by
  obtain ⟨-, -, hmT, hT, -⟩ := acceptedRow_bounds hr
  have hlen := length_ksExpand s.params s.key r.zsel hmT.le
  exact { h with
    rkMasked := by
      rw [loadKeyState_rk, List.all_append, Bool.and_eq_true]
      exact ⟨ksExpand_all s.params s.key _ _ _, all_isWord_replicate_zero _ _⟩
    rkLength := by
      rw [loadKeyState_rk, List.length_append, hlen, List.length_replicate]
      exact Nat.add_sub_of_le hT
    unkeyed := fun hk => Bool.noConfusion hk
    keyed := fun _ => ⟨r, hr, rfl, fun i hi => rkAt_append_zero (hlen.le.trans hi)⟩ }

/-! ### Every step keeps the invariant -/

theorem CoreInv.of_commandEffect {i : Instr} {s t : State} (h : CoreInv s)
    (he : CommandEffect i s t) : CoreInv t := by
  cases he with
  | nothing => exact h.finish
  | error e hne => exact h.commandErrorState hne
  | badKey => exact h.dropKey.commandErrorState (by decide)
  | key len r _ hr => exact (h.loadKeyState hr).finish
  | noKey => exact h.dropKey.finish
  | result v _ hv => exact (h.setRes0 (hv h.rkMasked)).finish
  | results v w _ hvw => exact (h.setRes (hvw h.rkMasked).1 (hvw h.rkMasked).2).finish
  | block len out wb => exact (h.setOut out wb).finish

theorem CoreInv.of_engineEffect {c : Cycle} {s u : State} (h : CoreInv s)
    (he : EngineEffect c s u) : CoreInv u := by
  cases he with
  | idle => exact h
  | illegal => exact h.commandErrorState (by decide)
  | command i u _ _ _ he => exact h.of_commandEffect he

theorem CoreInv.of_storeEffect {v : Reg32} {r : Reg} {s t : State} (h : CoreInv s)
    (he : StoreEffect v s r t) : CoreInv t := by
  cases he with
  | reset => exact .resetCore s
  | clears => exact h.writeStatus v
  | issues => exact h.issue v
  | enables | key | din | arg0 | arg1 => exact h.congr ..

theorem CoreInv.of_transferEffect {c : Cycle} {s t : State} (h : CoreInv s)
    (he : TransferEffect c s t) : CoreInv t := by
  cases he with
  | idle => exact h
  | error e _ _ hne => exact h.writeErrorState hne c.addr
  | store t _ _ _ he => exact h.of_storeEffect he
  | read => exact h.congr ..

theorem CommandEffect.params {i : Instr} {s t : State} (he : CommandEffect i s t) :
    t.params = s.params := by
  cases he <;> rfl

theorem EngineEffect.params {c : Cycle} {s u : State} (he : EngineEffect c s u) :
    u.params = s.params := by
  cases he with
  | idle | illegal => rfl
  | command i u _ _ _ he => exact he.params

theorem TransferEffect.params {c : Cycle} {s t : State} (he : TransferEffect c s t) :
    t.params = s.params := by
  cases he with
  | idle | error | read => rfl
  | store t _ _ _ he => generalize regAt c.addr = r at he; cases he <;> rfl

/-- Settles O13: every field of the reset state is 0 or false. -/
theorem resetMeetsInvariant : Obligations.ResetMeetsInvariant := by
  unfold Obligations.ResetMeetsInvariant
  exact ⟨coreInv_resetOf, coreInv_resetOf .default24⟩

/-- Settles O14: a reset gives the invariant from nothing; the start of a cycle, the engine's part and
the transfer each keep it. -/
theorem stepKeepsInvariant : Obligations.StepKeepsInvariant := by
  unfold Obligations.StepKeepsInvariant
  intro s t h
  rcases step_cases h with ⟨-, rfl⟩ | ⟨-, u, hu, rfl⟩
  · exact ⟨rfl, fun _ => (CoreInv.resetCore (beginCycle s)).congr ..⟩
  · have hengine := enginePhase_effect hu
    have htransfer := busPhase_effect (nextCycle s) u
    have hbegin : CoreInv s → CoreInv (beginCycle s) := fun hs => hs.congr ..
    exact ⟨htransfer.params.trans hengine.params,
      fun hs => ((hbegin hs).of_engineEffect hengine).of_transferEffect htransfer⟩

end Sys2Proof.Machine
end

section
/-! Proofs: a step as the run of the pending command, and the pending period
(spec/40_command_model.md, R101 to R104). -/

namespace Sys2Proof.Machine

/-! ### A step that completes a command -/

/-- A pending word that is a command completes by running it (R104). -/
theorem completePending_of_ok {s : State} {i : Instr} (h : decode s.pending = .ok i) :
    completePending s = exec i s := by
  rw [completePending, h]

/-- In a cycle with `rst_n` = 1 in which the engine acts on a pending command, the step runs it and then
makes the transfer (R104, R225). -/
theorem step_of_pending {s : State} {i : Instr} (hbusy : s.busy = true) (hi : decode s.pending = .ok i)
    (hrst : (nextCycle s).rstN = true) (hengine : (nextCycle s).engine = true) :
    step s = mapNext (busPhase (nextCycle s)) (exec i (beginCycle s)) := by
  have hphase : enginePhase (nextCycle s) (beginCycle s) = exec i (beginCycle s) :=
    (enginePhase_of_busy (s := beginCycle s) hengine hbusy).trans
      (completePending_of_ok (s := beginCycle s) hi)
  rw [step, clockEdge, if_pos hrst, hphase]

/-- A cycle without a transfer adds nothing to the engine's part. -/
theorem mapNext_busPhase_engineTurn (o : Host.Outcome State Fault Refusal) :
    mapNext (busPhase Cycle.engineTurn) o = o := by
  cases o <;> rfl

/-- After the script come cycles without transfers in which a pending command completes (log 2). -/
theorem nextCycle_of_script_nil {s : State} (h : s.script = []) : nextCycle s = Cycle.engineTurn := by
  rw [nextCycle, h]
  rfl

theorem beginCycle_of_script_nil {s : State} (h : s.script = []) :
    beginCycle s = { s with rdata := none } := by
  have htail : s.script.tail = s.script := by rw [h]; rfl
  rw [beginCycle, htail]

theorem ofNat_mod_two_pow (n w : Nat) : BitVec.ofNat n (w % 2 ^ n) = BitVec.ofNat n w :=
  BitVec.eq_of_toNat_eq (by simp only [BitVec.toNat_ofNat, Nat.mod_mod])

/-- Settles O6: the engine's part of such a cycle is `exec` of the decoded command; a placed command
gets a cycle without a transfer of its own. -/
theorem stepRunsDecodedCommand : Obligations.StepRunsDecodedCommand := by
  unfold Obligations.StepRunsDecodedCommand
  refine ⟨fun s i hbusy hi hrst hengine => step_of_pending hbusy hi hrst hengine,
    fun s i hbusy hi hscript => ?noScript, fun s w i hi => ?placed⟩
  case noScript =>
    have hcycle := nextCycle_of_script_nil hscript
    rw [step_of_pending hbusy hi (by rw [hcycle]; rfl) (by rw [hcycle]; rfl), hcycle,
      mapNext_busPhase_engineTurn, beginCycle_of_script_nil hscript]
  case placed =>
    rw [State.withFetchWord, ofNat_mod_two_pow]
    exact (step_of_pending (s := placeCommand (BitVec.ofNat 32 w) s) rfl hi rfl rfl).trans
      (mapNext_busPhase_engineTurn _)

/-! ### The end of the pending period -/

/-- A cycle without a transfer in which the engine acts ends with BUSY = 0 (R103). -/
theorem step_engineTurn_idle {s t : State} (hcycle : nextCycle s = Cycle.engineTurn)
    (h : step s = .next t) : t.busy = false := by
  obtain ⟨u, hu, ht⟩ := step_effects h (by rw [hcycle]; rfl)
  rw [hcycle] at hu ht
  have htu : t.busy = u.busy := by
    cases ht with
    | idle => rfl
    | error e hsel | store t hsel | read v d hsel => cases hsel
  rw [htu]
  cases hu with
  | idle hno => exact hno.resolve_left Bool.noConfusion
  | illegal => rfl
  | command i u _ _ _ he => exact he.flags.1

theorem run_succ_of_step {s t : State} (h : step s = .next t) (k : Nat) :
    Host.Core.run core (k + 1) s = Host.Core.run core k t := by
  have hstep : core.step s = .next t := h
  simp only [Host.Core.run, hstep]

/-- Each step takes a cycle off the script, and the first cycle after it completes a pending command. -/
theorem run_script_idle (cycles : List Cycle) : ∀ s : State, s.script = cycles →
    ∃ t, Host.Core.run core (cycles.length + 1) s = .next t ∧ t.busy = false ∧ t.script = [] := by
  induction cycles with
  | nil =>
    intro s hscript
    obtain ⟨t, ht⟩ := stepAlwaysNext s
    have htail : t.script = [] := by rw [step_script ht, hscript]; rfl
    exact ⟨t, run_succ_of_step ht 0, step_engineTurn_idle (nextCycle_of_script_nil hscript) ht, htail⟩
  | cons c rest ih =>
    intro s hscript
    obtain ⟨t, ht⟩ := stepAlwaysNext s
    obtain ⟨u, hu, hend⟩ := ih t (by rw [step_script ht, hscript]; rfl)
    exact ⟨u, (run_succ_of_step ht _).trans hu, hend⟩

/-- Settles O11, by induction on the script. -/
theorem pendingCommandEnds : Obligations.PendingCommandEnds := by
  unfold Obligations.PendingCommandEnds
  exact fun s => run_script_idle s.script s rfl

/-! ### The pending period -/

/-- A store into an unlocked register that is not the soft reset reaches neither the pending command nor
its inputs and results, and sets no DONE (R48). -/
theorem StoreEffect.unlocked_frame {v : Reg32} {r : Reg} {s t : State} (he : StoreEffect v s r t)
    (hlock : r.locked = false) (hno : ¬ (r = .ctrl ∧ v.getLsbD 31 = true)) :
    t.busy = s.busy ∧ t.pending = s.pending ∧ t.key = s.key ∧ t.din = s.din ∧ t.arg0 = s.arg0 ∧
    t.arg1 = s.arg1 ∧ t.rk = s.rk ∧ t.cfg = s.cfg ∧ t.keyValid = s.keyValid ∧ t.dout = s.dout ∧
    t.res0 = s.res0 ∧ t.res1 = s.res1 ∧ (t.done = true → s.done = true) := by
  cases he with
  | reset hv => exact absurd ⟨rfl, hv⟩ hno
  | enables => exact ⟨rfl, rfl, rfl, rfl, rfl, rfl, rfl, rfl, rfl, rfl, rfl, rfl, id⟩
  | clears =>
    exact ⟨rfl, rfl, rfl, rfl, rfl, rfl, rfl, rfl, rfl, rfl, rfl, rfl,
      fun h => (Bool.and_eq_true_iff.mp h).1⟩
  | issues | key | din => cases hlock
  | arg0 r w h | arg1 r w h => exact absurd h (by rw [hlock]; decide)

/-- While BUSY = 1 a transfer that does not reset the core leaves what `unlocked_frame` leaves: a locked
register takes no write (R48, R101). -/
theorem TransferEffect.busy_frame {c : Cycle} {s t : State} (he : TransferEffect c s t)
    (hbusy : s.busy = true) (hr : resetsInCycle c = false) :
    t.busy = s.busy ∧ t.pending = s.pending ∧ t.key = s.key ∧ t.din = s.din ∧ t.arg0 = s.arg0 ∧
    t.arg1 = s.arg1 ∧ t.rk = s.rk ∧ t.cfg = s.cfg ∧ t.keyValid = s.keyValid ∧ t.dout = s.dout ∧
    t.res0 = s.res0 ∧ t.res1 = s.res1 ∧ (t.done = true → s.done = true) := by
  cases he with
  | idle | error | read => exact ⟨rfl, rfl, rfl, rfl, rfl, rfl, rfl, rfl, rfl, rfl, rfl, rfl, id⟩
  | store t hsel hwrite hopen he =>
    exact he.unlocked_frame (hopen.resolve_left (by rw [hbusy]; decide))
      (not_softReset_of_write hr hsel hwrite)

/-- Settles O12: without a completion the engine's part of the cycle is empty, and the transfer finds
every register of the pending command locked. -/
theorem pendingCommandKeepsItsInputs : Obligations.PendingCommandKeepsItsInputs := by
  unfold Obligations.PendingCommandKeepsItsInputs
  intro s t hbusy hengine hr h
  obtain ⟨u, hu, ht⟩ := step_effects h hr
  obtain rfl := hu.eq_of_not_completes (by simp [hengine])
  obtain ⟨htbusy, hframe⟩ := ht.busy_frame hbusy hr
  exact ⟨htbusy.trans hbusy, hframe⟩

end Sys2Proof.Machine
end

section
/-! Proofs: hardware reset and soft reset (spec/70_reset_and_hazards.md, R260 and R261). -/

namespace Sys2Proof.Machine

/-! ### Hardware reset -/

/-- A cycle of the script with `rst_n` = 0 is the reset alone (R260). -/
theorem step_of_reset_cycle {s : State} {c : Cycle} {rest : List Cycle} (hscript : s.script = c :: rest)
    (hrst : c.rstN = false) :
    step s = .next (resetPhase c { s with script := rest, rdata := none }) := by
  simp [step, nextCycle, beginCycle, clockEdge, hscript, hrst]

/-- A cycle with `rst_n` = 0 is the reset operation, apart from what its read drives. -/
theorem resetPhase_eq_resetCore (c : Cycle) (s : State) : resetPhase c s =
    resetCore { s with rdata := if c.sel && !c.write then some 0 else s.rdata } := rfl

theorem irq_resetCore (s : State) : irq (resetCore s) = false := rfl

/-- Settles O15: the step is the reset operation, and the only other field of it that depends on the cycle
is `rdata`. -/
theorem hardwareReset : Obligations.HardwareReset := by
  unfold Obligations.HardwareReset
  intro s c rest hscript hrst
  refine ⟨_, step_of_reset_cycle hscript hrst, ?_⟩
  rw [resetPhase_eq_resetCore]
  refine ⟨inResetState_resetCore _, irq_resetCore _, rfl, rfl, ?_⟩
  simp only [resetCore_rdata, Bool.and_eq_true, Bool.not_eq_true']

/-! ### Soft reset -/

/-- The write performs only the reset, whatever its other bits are (R33, R261). -/
theorem busWrite_softReset {off : Offset} {v : Reg32} (hoff : off &&& 0xFC = 0x0C)
    (hv : v.getLsbD 31 = true) (s : State) : busWrite off v s = resetCore s :=
  (busWrite_ctrl hoff v s).trans (writeCtrl_reset hv s)

/-- After a reset no command is pending, so the next cycle is its transfer alone (R261). -/
theorem step_resetCore {s : State} {c : Cycle} {rest : List Cycle} (hrst : c.rstN = true)
    (hscript : s.script = c :: rest) :
    step (resetCore s) = .next (busPhase c { resetCore s with script := rest, rdata := none }) := by
  rw [step_of_script (s := resetCore s) hscript hrst,
    enginePhase_idle (s := { resetCore s with script := rest, rdata := none }) rfl, mapNext_next]

/-- Settles O16: the write is the reset operation, and the cycle after it is its transfer alone: none, any
transfer, or a CMD write, which an idle core accepts. -/
theorem softReset : Obligations.SoftReset := by
  unfold Obligations.SoftReset
  intro s off v hoff hv
  rw [busWrite_softReset hoff hv]
  refine ⟨inResetState_resetCore s, rfl, rfl, fun rest hscript => ?discarded,
    fun c rest hrst hscript => step_resetCore hrst hscript, fun off' w rest hoff' hscript => ?accepted⟩
  case discarded =>
    exact ⟨_, step_resetCore rfl hscript,
      inResetState_resetCore { s with script := rest, rdata := none }⟩
  case accepted =>
    have hissue := issueCommand { resetCore s with script := rest, rdata := none } off' w rfl hoff'
    have hstep := step_resetCore rfl hscript
    exact ⟨_, hstep.trans (congrArg _ hissue), rfl, rfl⟩

end Sys2Proof.Machine
end

section
/-! Proofs: what the registers read, what a write of a data register leaves, and the address map
(spec/10_state.md, R23 to R48, and spec/20_memory.md, R60 to R71). -/

namespace Sys2Proof.Machine

/-! ### STATUS -/

/-- The fields of STATUS, over every value of its flags and of its code (R34, R220). -/
theorem statusFields (busy keyValid done err : Bool) (e : ErrCode) :
    let r := flagBit busy 0 ||| flagBit keyValid 1 ||| flagBit done 2 ||| flagBit err 3
      ||| (BitVec.ofNat 32 e.code <<< 8)
    r.getLsbD 0 = busy ∧ r.getLsbD 1 = keyValid ∧ r.getLsbD 2 = done ∧ r.getLsbD 3 = err ∧
      r.toNat / 16 % 16 = 0 ∧ r.toNat / 256 = e.code := by
  revert busy keyValid done err
  cases e <;> decide

/-- Settles O20: STATUS is not open while BUSY = 1, and its fields do not overlap. -/
theorem statusLayout : Obligations.StatusLayout := by
  unfold Obligations.StatusLayout
  intro s off hoff
  obtain ⟨h0, h1, h2, h3, hzero, hcode⟩ := statusFields s.busy s.keyValid s.done s.err s.errCode
  refine ⟨statusWord s, reads_of_regAt ((regAt_status_iff off).mpr hoff) rfl s,
    h0, h1, h2, h3, hzero, hcode.trans ?_⟩
  cases s.errCode <;> rfl

/-- Settles O21: a STATUS write is accepted at any time, and bit 3 decides about the whole record. -/
theorem statusWriteClears : Obligations.StatusWriteClears := by
  unfold Obligations.StatusWriteClears
  intro s off v hoff
  rw [busWrite_status hoff, writeStatus]
  refine ⟨fun hv => ?clears, fun hv => ?keeps⟩
  case clears => rw [if_pos hv, if_pos hv, hv, Bool.not_true, Bool.and_false]
  case keeps =>
    have hv' : ¬ v.getLsbD 3 = true := Bool.eq_false_iff.mp hv
    rw [if_neg hv', if_neg hv', hv, Bool.not_false, Bool.and_true]

/-! ### The register map -/

/-- With BUSY = 0 a read by a register's name returns its value (R60). -/
theorem reads_offsetOf_idle {s : State} (hidle : s.busy = false) (r : Reg) :
    reads (offsetOf r) (readReg r s) s := by
  simpa only [regAt_offsetOf] using reads_idle hidle (offsetOf r)

/-- CMD, KEY and the unmapped offsets, by number (R23). -/
theorem writeOnly_or_unmapped : ∀ off : Offset,
    ((off &&& 0xFC).toNat = 0x14 ∨ (0x20 ≤ (off &&& 0xFC).toNat ∧ (off &&& 0xFC).toNat ≤ 0x3C) ∨
      0x80 ≤ (off &&& 0xFC).toNat) →
    regAt off = .cmd ∨ (∃ i, regAt off = .key i) ∨ regAt off = .unmapped := by
  decide +kernel

/-- Settles O23: each register by its name, and the classes of offsets that read 0. -/
theorem registerMapReads : Obligations.RegisterMapReads := by
  unfold Obligations.RegisterMapReads
  refine ⟨fun s => ⟨?errInfo, ?din, ?arg0Lo, ?arg0Hi, ?arg1Lo, ?arg1Hi⟩,
    fun s hidle => ⟨?cfg, ?dout, ?res0Lo, ?res0Hi, ?res1Lo, ?res1Hi⟩, fun s off hoff => ?zero⟩
  case errInfo => exact reads_offsetOf (r := .errInfo) rfl s
  case din => exact fun i => reads_offsetOf (r := .din i) rfl s
  case arg0Lo => exact reads_offsetOf (r := .arg0Lo) rfl s
  case arg0Hi => exact reads_offsetOf (r := .arg0Hi) rfl s
  case arg1Lo => exact reads_offsetOf (r := .arg1Lo) rfl s
  case arg1Hi => exact reads_offsetOf (r := .arg1Hi) rfl s
  case cfg => exact reads_offsetOf_idle hidle .cfg
  case dout => exact fun i => reads_offsetOf_idle hidle (.dout i)
  case res0Lo => exact reads_offsetOf_idle hidle .res0Lo
  case res0Hi => exact reads_offsetOf_idle hidle .res0Hi
  case res1Lo => exact reads_offsetOf_idle hidle .res1Lo
  case res1Hi => exact reads_offsetOf_idle hidle .res1Hi
  case zero =>
    rcases writeOnly_or_unmapped off hoff with hreg | ⟨i, hreg⟩ | hreg
    · exact reads_of_regAt hreg rfl s
    · exact reads_of_regAt hreg rfl s
    · exact reads_of_regAt hreg rfl s

/-! ### Reads -/

/-- A register's value is not what a read drives or counts (R70). -/
theorem readReg_rdata_draws (r : Reg) (s : State) (rdata : Option Reg32) (draws : Nat) :
    readReg r { s with rdata, draws } = readReg r s := by
  cases r <;> rfl

/-- A read that is not a draw returns the register's value (R48, R60). -/
theorem reads_of_defined {s : State} {off : Offset}
    (h : ¬ (s.busy = true ∧ (regAt off).openWhileBusy = true)) :
    reads off (readReg (regAt off) s) s := by
  rw [reads, busRead_defined h]

/-- Settles O24: only an unspecified read counts a draw; a defined one leaves the register and BUSY as
they are. -/
theorem readsChangeNoRegister : Obligations.ReadsChangeNoRegister := by
  unfold Obligations.ReadsChangeNoRegister
  intro s off
  by_cases hopen : s.busy = true ∧ (regAt off).openWhileBusy = true
  · refine ⟨_, _, busRead_open hopen.1 hopen.2, fun hdefined => absurd ?_ hdefined⟩
    exact ⟨hopen.1, (resultOffset_iff off).mpr hopen.2⟩
  · refine ⟨_, s.draws, busRead_defined hopen, fun _ => ⟨rfl, ?_⟩⟩
    rw [busRead_defined hopen]
    exact (reads_of_defined (s := { s with rdata := some (readReg (regAt off) s) }) hopen).trans
      (congrArg some (readReg_rdata_draws _ s _ s.draws))

/-- Settles O25: the result offsets are those of the registers that are open while BUSY = 1. -/
theorem resultReadsWhileBusyAreDraws : Obligations.ResultReadsWhileBusyAreDraws := by
  unfold Obligations.ResultReadsWhileBusyAreDraws
  exact fun s off hbusy hoff => busRead_open hbusy ((resultOffset_iff off).mp hoff)

/-- Settles O28: the register and the information word of an error are those of the masked offset. -/
theorem lowAddressBitsIgnored : Obligations.LowAddressBitsIgnored := by
  unfold Obligations.LowAddressBitsIgnored
  intro s off v
  constructor
  · simp only [busWrite, busError, regAt_mask, mask_mask]
  · simp only [busRead, regAt_mask]

/-! ### The data registers -/

/-- A register of DIN, or a half of ARG0 or ARG1 (R38, R40). -/
def isDataReg : Reg → Bool
  | .din _ | .arg0Lo | .arg0Hi | .arg1Lo | .arg1Hi => true
  | _ => false

theorem isDataReg_of_offset : ∀ off : Offset,
    ((0x40 ≤ (off &&& 0xFC).toNat ∧ (off &&& 0xFC).toNat ≤ 0x4C) ∨
      (0x60 ≤ (off &&& 0xFC).toNat ∧ (off &&& 0xFC).toNat ≤ 0x6C)) →
    isDataReg (regAt off) = true := by
  decide +kernel

theorem rejectsWrites_of_isDataReg {r : Reg} (h : isDataReg r = true) : r.rejectsWrites = false := by
  cases r with
  | din | arg0Lo | arg0Hi | arg1Lo | arg1Hi => rfl
  | _ => cases h

theorem ne_unmapped_of_isDataReg {r : Reg} (h : isDataReg r = true) : r ≠ .unmapped := by
  rintro rfl
  cases h

theorem storeReg_busy_of_isDataReg {r : Reg} (h : isDataReg r = true) (v : Reg32) (s : State) :
    (storeReg r v s).busy = s.busy := by
  cases r with
  | din | arg0Lo | arg0Hi | arg1Lo | arg1Hi => rfl
  | _ => cases h

theorem readReg_storeReg_same {r : Reg} (h : isDataReg r = true) (v : Reg32) (s : State) :
    readReg r (storeReg r v s) = v := by
  cases r with
  | din i => exact Vector.getElem_set_self i.isLt
  | arg0Lo => exact withLo_low s.arg0 v
  | arg0Hi => exact withHi_high s.arg0 v
  | arg1Lo => exact withLo_low s.arg1 v
  | arg1Hi => exact withHi_high s.arg1 v
  | _ => cases h

/-- A store reaches no other register: not another of DIN, and not the other half (R38, R40). -/
theorem readReg_storeReg_other {r r' : Reg} (h : isDataReg r = true) (hne : r' ≠ r) (v : Reg32)
    (s : State) : readReg r' (storeReg r v s) = readReg r' s := by
  cases r with
  | din i =>
    cases r' with
    | din j =>
      have hij : (i : Nat) ≠ j := fun hij => hne (congrArg Reg.din (Fin.ext hij.symm))
      exact Vector.getElem_set_ne i.isLt j.isLt hij
    | _ => rfl
  | arg0Lo =>
    cases r' with
    | arg0Lo => exact absurd rfl hne
    | arg0Hi => exact withLo_high s.arg0 v
    | _ => rfl
  | arg0Hi =>
    cases r' with
    | arg0Hi => exact absurd rfl hne
    | arg0Lo => exact withHi_low s.arg0 v
    | _ => rfl
  | arg1Lo =>
    cases r' with
    | arg1Lo => exact absurd rfl hne
    | arg1Hi => exact withLo_high s.arg1 v
    | _ => rfl
  | arg1Hi =>
    cases r' with
    | arg1Hi => exact absurd rfl hne
    | arg1Lo => exact withHi_low s.arg1 v
    | _ => rfl
  | _ => cases h

/-- Whatever `addr[1:0]` is, an idle write of a register that accepts writes is the store (R67). -/
theorem busWrite_masked_idle {r : Reg} {off : Offset} (hoff : off &&& 0xFC = offsetOf r)
    (hr : r.rejectsWrites = false) {s : State} (hidle : s.busy = false) (v : Reg32) :
    busWrite off v s = storeReg r v s := by
  rw [(lowAddressBitsIgnored s off v).1, hoff, busWrite_offsetOf_idle hr hidle]

/-- Settles O26: an accepted write is a store, which reaches the register alone; the frames are the
stores written out. -/
theorem dataRegistersReadBack : Obligations.DataRegistersReadBack := by
  unfold Obligations.DataRegistersReadBack
  intro s off v hidle
  refine ⟨fun hoff => ?readBack, fun i hoff => ?din, fun hoff => ?arg0Lo, fun hoff => ?arg0Hi,
    fun hoff => ?arg1Lo, fun hoff => ?arg1Hi⟩
  case readBack =>
    have hdata := isDataReg_of_offset off hoff
    have hidle' := (storeReg_busy_of_isDataReg hdata v s).trans hidle
    rw [busWrite_stored v (rejectsWrites_of_isDataReg hdata) (.inl hidle)]
    constructor
    · exact (reads_idle hidle' off).trans (congrArg some (readReg_storeReg_same hdata v s))
    · intro off' hne
      have hreg : regAt off' ≠ regAt off := fun h =>
        hne (regAt_inj h (h ▸ ne_unmapped_of_isDataReg hdata))
      exact (reads_idle hidle' off').trans
        ((congrArg some (readReg_storeReg_other hdata hreg v s)).trans (reads_idle hidle off').symm)
  case din => exact busWrite_masked_idle (r := .din i) hoff rfl hidle v
  case arg0Lo => exact busWrite_masked_idle (r := .arg0Lo) hoff rfl hidle v
  case arg0Hi => exact busWrite_masked_idle (r := .arg0Hi) hoff rfl hidle v
  case arg1Lo => exact busWrite_masked_idle (r := .arg1Lo) hoff rfl hidle v
  case arg1Hi => exact busWrite_masked_idle (r := .arg1Hi) hoff rfl hidle v

/-! ### The platform's address map -/

theorem platformOffset_add (off : Offset) :
    platformOffset (Config.baseAddr + off.toNat) = some off := by
  have hlt : off.toNat < 256 := off.isLt
  rw [platformOffset, if_pos (by omega), Nat.add_sub_cancel_left, BitVec.ofNat_toNat,
    BitVec.setWidth_eq]

theorem platformOffset_outside {a : Nat} (h : a < Config.baseAddr ∨ Config.baseAddr + 256 ≤ a) :
    platformOffset a = none :=
  if_neg (by omega)

/-- Settles O30: `platformOffset` subtracts BASE_ADDR within the window and answers none outside it. -/
theorem platformAddressMap : Obligations.PlatformAddressMap := by
  unfold Obligations.PlatformAddressMap
  refine ⟨fun off v => ?inside, fun a v s hout => ?outside⟩
  case inside =>
    rw [Cycle.platformWrite, Cycle.platformRead, platformOffset_add]
    exact ⟨rfl, rfl⟩
  case outside =>
    rw [Cycle.platformWrite, Cycle.platformRead, platformOffset_outside hout]
    exact ⟨rfl, rfl⟩

end Sys2Proof.Machine
end

section
/-! Proofs: which command may change which register, and what changes the key state and the flags
(spec/10_state.md, R39 to R49, spec/43_key_schedule.md, R161, and spec/45_cipher_facade.md, R204). -/

namespace Sys2Proof.Machine

/-! ### The frame of a command -/

theorem CommandEffect.dout {i : Instr} {s t : State} (he : CommandEffect i s t) :
    t.dout = s.dout ∨ ∃ len wb, i = .encrypt len wb ∨ i = .decrypt len wb := by
  cases he with
  | block len out wb hi => exact .inr ⟨len, wb, hi⟩
  | _ => exact .inl rfl

theorem CommandEffect.din {i : Instr} {s t : State} (he : CommandEffect i s t) :
    t.din = s.din ∨ ∃ len, i = .encrypt len true ∨ i = .decrypt len true := by
  cases he with
  | block len out wb hi =>
    cases wb with
    | false => exact .inl rfl
    | true => exact .inr ⟨len, hi⟩
  | _ => exact .inl rfl

theorem CommandEffect.res0 {i : Instr} {s t : State} (he : CommandEffect i s t) :
    t.res0 = s.res0 ∨ i = .scramble ∨ ∃ k kw, i = .rkRead k ∨ i = .roundEnc k ∨ i = .roundDec k ∨
      i = .rotl k ∨ i = .rotr k ∨ i = .zbit k kw := by
  cases he with
  | result v hi =>
    rcases hi with rfl | ⟨k, rfl | rfl | rfl⟩
    · exact .inr (.inl rfl)
    all_goals exact .inr (.inr ⟨k, 0, by simp⟩)
  | results v w hi =>
    obtain ⟨k, kw, rfl | rfl | rfl⟩ := hi
    all_goals exact .inr (.inr ⟨k, kw, by simp⟩)
  | _ => exact .inl rfl

theorem CommandEffect.res1 {i : Instr} {s t : State} (he : CommandEffect i s t) :
    t.res1 = s.res1 ∨ ∃ k kw, i = .roundEnc k ∨ i = .roundDec k ∨ i = .zbit k kw := by
  cases he with
  | results v w hi => exact .inr hi
  | _ => exact .inl rfl

theorem CommandEffect.keyState {i : Instr} {s t : State} (he : CommandEffect i s t) :
    (t.rk = s.rk ∧ t.cfg = s.cfg ∧ t.keyValid = s.keyValid ∧ t.key = s.key) ∨
    i = .clearKey ∨ ∃ len, i = .loadKey len := by
  cases he with
  | badKey len hi | key len r hi => exact .inr (.inr ⟨len, hi⟩)
  | noKey hi => exact .inr (.inl hi)
  | _ => exact .inl ⟨rfl, rfl, rfl, rfl⟩

/-- An error is recorded only where none was (R105, R222). -/
theorem CommandEffect.errorRecord {i : Instr} {s t : State} (he : CommandEffect i s t)
    (h : s.err = true ∨ t.err = false) :
    t.err = s.err ∧ t.errCode = s.errCode ∧ t.errInfo = s.errInfo := by
  cases he with
  | error | badKey =>
    have hs : s.err = true := h.resolve_right Bool.noConfusion
    exact ⟨hs.symm, if_pos hs, if_pos hs⟩
  | _ => exact ⟨rfl, rfl, rfl⟩

/-- No command reaches the operands, the enables, the latch and the model's own fields. -/
theorem CommandEffect.frame {i : Instr} {s t : State} (he : CommandEffect i s t) :
    t.arg0 = s.arg0 ∧ t.arg1 = s.arg1 ∧ t.doneIE = s.doneIE ∧ t.errIE = s.errIE ∧
    t.params = s.params ∧ t.script = s.script ∧ t.rdata = s.rdata ∧ t.draws = s.draws ∧
    t.pending = s.pending := by
  cases he <;> exact ⟨rfl, rfl, rfl, rfl, rfl, rfl, rfl, rfl, rfl⟩

/-- Settles O59: register by register, over the effects a command can have. -/
theorem commandFrame : Obligations.CommandFrame := by
  unfold Obligations.CommandFrame
  intro i s t h
  have he := effect_of_exec h
  obtain ⟨h0, h1, h2, h3, h4, h5, h6, h7, h8⟩ := he.frame
  refine ⟨h0, h1, h2, h3, h4, h5, h6, h7, h8, he.flags.1, he.flags.2, he.dout.resolve_left,
    he.din.resolve_left, he.res0.resolve_left, he.res1.resolve_left, fun hne => ?_, he.errorRecord⟩
  refine he.keyState.resolve_left fun ⟨hrk, hcfg, hvalid, hkey⟩ => ?_
  simp [hrk, hcfg, hvalid, hkey] at hne

/-! ### The key state over a step -/

theorem EngineEffect.keyState {c : Cycle} {s u : State} (he : EngineEffect c s u) :
    (u.rk = s.rk ∧ u.cfg = s.cfg ∧ u.keyValid = s.keyValid) ∨
    s.busy = true ∧ c.engine = true ∧
      ((∃ len, decode s.pending = .ok (.loadKey len)) ∨ decode s.pending = .ok .clearKey) := by
  cases he with
  | idle | illegal => exact .inl ⟨rfl, rfl, rfl⟩
  | command i u hengine hbusy hi he =>
    rcases he.keyState with ⟨hrk, hcfg, hvalid, -⟩ | rfl | ⟨len, rfl⟩
    · exact .inl ⟨hrk, hcfg, hvalid⟩
    · exact .inr ⟨hbusy, hengine, .inr hi⟩
    · exact .inr ⟨hbusy, hengine, .inl ⟨len, hi⟩⟩

theorem StoreEffect.keyState {v : Reg32} {r : Reg} {s t : State} (he : StoreEffect v s r t)
    (hno : ¬ (r = .ctrl ∧ v.getLsbD 31 = true)) :
    t.rk = s.rk ∧ t.cfg = s.cfg ∧ t.keyValid = s.keyValid := by
  cases he with
  | reset hv => exact absurd ⟨rfl, hv⟩ hno
  | _ => exact ⟨rfl, rfl, rfl⟩

theorem TransferEffect.keyState {c : Cycle} {s t : State} (he : TransferEffect c s t)
    (hr : resetsInCycle c = false) : t.rk = s.rk ∧ t.cfg = s.cfg ∧ t.keyValid = s.keyValid := by
  cases he with
  | idle | error | read => exact ⟨rfl, rfl, rfl⟩
  | store t hsel hwrite _ he => exact he.keyState (not_softReset_of_write hr hsel hwrite)

/-- Settles O57: no transfer but a reset reaches the key state, and of the completions only two do. -/
theorem keyStateChangesOnlyByKeyCommands : Obligations.KeyStateChangesOnlyByKeyCommands := by
  unfold Obligations.KeyStateChangesOnlyByKeyCommands
  intro s t h hr hne
  obtain ⟨u, hu, ht⟩ := step_effects h hr
  obtain ⟨hrk, hcfg, hvalid⟩ := ht.keyState hr
  refine hu.keyState.resolve_left fun ⟨hrk', hcfg', hvalid'⟩ => ?_
  simp [hrk, hcfg, hvalid, hrk', hcfg', hvalid'] at hne

/-! ### KEYVALID -/

theorem CommandEffect.keyValid_set {i : Instr} {s t : State} (he : CommandEffect i s t)
    (hs : s.keyValid = false) (ht : t.keyValid = true) : ∃ len, i = .loadKey len := by
  cases he with
  | key len r hi => exact ⟨len, hi⟩
  | badKey | noKey => cases ht
  | _ => exact absurd (hs.symm.trans ht) Bool.noConfusion

theorem EngineEffect.keyValid_set {c : Cycle} {s u : State} (he : EngineEffect c s u)
    (hs : s.keyValid = false) (hu : u.keyValid = true) :
    s.busy = true ∧ c.engine = true ∧ ∃ len, decode s.pending = .ok (.loadKey len) := by
  cases he with
  | idle | illegal => exact absurd (hs.symm.trans hu) Bool.noConfusion
  | command i u hengine hbusy hi he =>
    obtain ⟨len, rfl⟩ := he.keyValid_set hs hu
    exact ⟨hbusy, hengine, len, hi⟩

/-! ### BUSY, DONE and ERR -/

/-- A completion ends with BUSY = 0 and DONE = 1 and clears no ERR; otherwise the engine does nothing. -/
theorem EngineEffect.flags {c : Cycle} {s u : State} (he : EngineEffect c s u) :
    u = s ∨ s.busy = true ∧ c.engine = true ∧ u.busy = false ∧ u.done = true ∧
      (s.err = true → u.err = true) := by
  cases he with
  | idle => exact .inl rfl
  | illegal hengine hbusy => exact .inr ⟨hbusy, hengine, rfl, rfl, fun _ => rfl⟩
  | command i u hengine hbusy _ he =>
    exact .inr ⟨hbusy, hengine, he.flags.1, he.flags.2,
      fun h => (he.errorRecord (.inl h)).1.trans h⟩

/-- What a transfer can do to BUSY, DONE and ERR outside a reset: nothing, an error report, an issue, or
the clears of a STATUS write (R49). -/
inductive FlagEffect (c : Cycle) (s t : State) : Prop where
  | same : t.busy = s.busy → t.done = s.done → t.err = s.err → FlagEffect c s t
  | error : c.sel = true → c.write = true →
      (readOnlyOffset c.addr ∨ s.busy = true ∧ lockedOffset c.addr) →
      t.busy = s.busy → t.done = s.done → t.err = true → FlagEffect c s t
  | issue : c.sel = true → c.write = true → c.addr &&& 0xFC = 0x14 →
      t.busy = true → t.done = false → t.err = s.err → FlagEffect c s t
  | clear : c.sel = true → c.write = true → c.addr &&& 0xFC = 0x10 →
      t.busy = s.busy → t.done = (s.done && !c.wdata.getLsbD 2) →
      t.err = (s.err && !c.wdata.getLsbD 3) → FlagEffect c s t

theorem StoreEffect.flags {v : Reg32} {r : Reg} {s t : State} (he : StoreEffect v s r t)
    (hno : ¬ (r = .ctrl ∧ v.getLsbD 31 = true)) :
    (t.busy = s.busy ∧ t.done = s.done ∧ t.err = s.err) ∨
    r = .cmd ∧ t = issue v s ∨ r = .status ∧ t = writeStatus v s := by
  cases he with
  | reset hv => exact absurd ⟨rfl, hv⟩ hno
  | issues => exact .inr (.inl ⟨rfl, rfl⟩)
  | clears => exact .inr (.inr ⟨rfl, rfl⟩)
  | enables | key | din | arg0 | arg1 => exact .inl ⟨rfl, rfl, rfl⟩

theorem TransferEffect.flags {c : Cycle} {s t : State} (he : TransferEffect c s t)
    (hr : resetsInCycle c = false) : FlagEffect c s t := by
  cases he with
  | idle | read => exact .same rfl rfl rfl
  | error e hsel hwrite _ hoff =>
    rw [← readOnlyOffset_iff, ← lockedOffset_iff] at hoff
    exact .error hsel hwrite hoff rfl rfl rfl
  | store t hsel hwrite _ he =>
    rcases he.flags (not_softReset_of_write hr hsel hwrite) with
      ⟨hbusy, hdone, herr⟩ | ⟨hreg, rfl⟩ | ⟨hreg, rfl⟩
    · exact .same hbusy hdone herr
    · exact .issue hsel hwrite ((regAt_cmd_iff _).mp hreg) rfl rfl rfl
    · exact .clear hsel hwrite ((regAt_status_iff _).mp hreg) rfl rfl rfl

theorem FlagEffect.busy_set {c : Cycle} {s t : State} (h : FlagEffect c s t) (hs : s.busy = false)
    (ht : t.busy = true) : c.sel = true ∧ c.write = true ∧ c.addr &&& 0xFC = 0x14 := by
  cases h with
  | issue hsel hwrite hoff => exact ⟨hsel, hwrite, hoff⟩
  | same hb | error _ _ _ hb | clear _ _ _ hb => rw [hb, hs] at ht; cases ht

theorem FlagEffect.busy_kept {c : Cycle} {s t : State} (h : FlagEffect c s t) (hs : s.busy = true) :
    t.busy = true := by
  cases h with
  | issue _ _ _ hb => exact hb
  | same hb | error _ _ _ hb | clear _ _ _ hb => exact hb.trans hs

theorem FlagEffect.done_not_set {c : Cycle} {s t : State} (h : FlagEffect c s t)
    (hs : s.done = false) : t.done = false := by
  cases h with
  | issue _ _ _ _ hd => exact hd
  | same _ hd | error _ _ _ _ hd => exact hd.trans hs
  | clear _ _ _ _ hd => rw [hd, hs, Bool.false_and]

theorem FlagEffect.done_cleared {c : Cycle} {s t : State} (h : FlagEffect c s t)
    (hs : s.done = true) (ht : t.done = false) : c.sel = true ∧ c.write = true ∧
      (c.addr &&& 0xFC = 0x14 ∨ (c.addr &&& 0xFC = 0x10 ∧ c.wdata.getLsbD 2 = true)) := by
  cases h with
  | issue hsel hwrite hoff => exact ⟨hsel, hwrite, .inl hoff⟩
  | same _ hd | error _ _ _ _ hd => rw [hd, hs] at ht; cases ht
  | clear hsel hwrite hoff _ hd =>
    rw [hd, hs, Bool.true_and, Bool.not_eq_false'] at ht
    exact ⟨hsel, hwrite, .inr ⟨hoff, ht⟩⟩

theorem FlagEffect.err_cleared {c : Cycle} {s t : State} (h : FlagEffect c s t) (hs : s.err = true)
    (ht : t.err = false) :
    c.sel = true ∧ c.write = true ∧ c.addr &&& 0xFC = 0x10 ∧ c.wdata.getLsbD 3 = true := by
  cases h with
  | same _ _ he | issue _ _ _ _ _ he => rw [he, hs] at ht; cases ht
  | error _ _ _ _ _ he => rw [he] at ht; cases ht
  | clear hsel hwrite hoff _ _ he =>
    rw [he, hs, Bool.true_and, Bool.not_eq_false'] at ht
    exact ⟨hsel, hwrite, hoff, ht⟩

theorem FlagEffect.err_set {c : Cycle} {s t : State} (h : FlagEffect c s t) (hs : s.err = false)
    (ht : t.err = true) : c.sel = true ∧ c.write = true ∧
      (readOnlyOffset c.addr ∨ s.busy = true ∧ lockedOffset c.addr) := by
  cases h with
  | error hsel hwrite hoff => exact ⟨hsel, hwrite, hoff⟩
  | same _ _ he | issue _ _ _ _ _ he => rw [he, hs] at ht; cases ht
  | clear _ _ _ _ _ he => rw [he, hs, Bool.false_and] at ht; cases ht

/-- Settles O58: where no command completes, the engine does nothing and the transfer accounts for the
change; where one completes, it accounts for the change or the transfer follows it. -/
theorem flagsChangeOnlyAsStated : Obligations.FlagsChangeOnlyAsStated := by
  unfold Obligations.FlagsChangeOnlyAsStated
  rintro s t c h rfl hr
  obtain ⟨u, hu, ht⟩ := step_effects h hr
  have hflags := ht.flags hr
  have hvalid := (ht.keyState hr).2.2
  have hsame : ¬ (s.busy = true ∧ (nextCycle s).engine = true) → u = beginCycle s :=
    hu.eq_of_not_completes
  refine ⟨fun hs hset => ?busySet, fun hs hclear => ?busyCleared, fun hs hset => ?doneSet,
    fun hs hclear => ?doneCleared, fun hs hclear => ?errCleared, fun hs hset => ?errSet,
    fun hs hset => ?validSet, fun hs hclear => ?validCleared⟩
  case busySet =>
    obtain rfl := hsame (by simp [hs])
    exact hflags.busy_set hs hset
  case busyCleared =>
    by_contra hengine
    obtain rfl := hsame (by simp [hengine])
    exact absurd (hflags.busy_kept hs) (by simp [hclear])
  case doneSet =>
    by_contra hno
    obtain rfl := hsame hno
    exact absurd (hflags.done_not_set hs) (by simp [hset])
  case doneCleared =>
    have hdone : u.done = true := by
      rcases hu.flags with rfl | ⟨-, -, -, hdone, -⟩
      · exact hs
      · exact hdone
    exact hflags.done_cleared hdone hclear
  case errCleared =>
    have herr : u.err = true := by
      rcases hu.flags with rfl | ⟨-, -, -, -, herr⟩
      · exact hs
      · exact herr hs
    exact hflags.err_cleared herr hclear
  case errSet =>
    by_cases hcompletes : s.busy = true ∧ (nextCycle s).engine = true
    · exact .inl hcompletes
    · obtain rfl := hsame hcompletes
      exact .inr (hflags.err_set hs hset)
  case validSet => exact hu.keyValid_set hs (hvalid.symm.trans hset)
  case validCleared =>
    refine hu.keyState.resolve_left fun ⟨_, _, hvalid'⟩ => ?_
    exact absurd (hvalid.trans (hvalid'.trans hs)) (by simp [hclear])

end Sys2Proof.Machine
end

section
/-! Proofs: the block round trip and the chain of rounds (spec/44_round_engine.md, R184, and
spec/45_cipher_facade.md, R203). -/

namespace Sys2Proof.Machine

/-! ### Byte strings of an array -/

theorem bytesAt_add {k : Nat} (r : Vector Reg32 k) (lo a b : Nat) :
    bytesAt r lo (a + b) = bytesAt r lo a ++ bytesAt r (lo + a) b := by
  simp only [bytesAt, List.range_add, List.map_append, List.map_map, Function.comp_def, Nat.add_assoc]

theorem getD_bytesAt {k : Nat} (r : Vector Reg32 k) (lo : Nat) {len j : Nat} (hj : j < len) :
    (bytesAt r lo len).getD j 0 = byteAt r (lo + j) := by
  simp [bytesAt, hj]

/-- An array holds a byte string where each of its bytes is that of the string. -/
theorem bytesAt_eq_of_getD {k : Nat} {r : Vector Reg32 k} {lo : Nat} {out : List Byte}
    (h : ∀ j, j < out.length → byteAt r (lo + j) = out.getD j 0) :
    bytesAt r lo out.length = out := by
  refine List.ext_getElem (length_bytesAt _ _ _) fun j hj hj' => ?_
  simpa [bytesAt, hj'] using h j hj'

/-! ### The block in DIN -/

/-- A word that was read from an array encodes to the bytes it was read from (R143). -/
theorem leEncode_wordAt {k : Nat} (p : Params) (r : Vector Reg32 k) (lo : Nat) :
    leEncode (wordBytes p) (wordAt p r lo) = bytesAt r lo (wordBytes p) := by
  have hlen : (bytesAt r lo (wordBytes p)).length ≤ 8 := by
    have h64 := wordBits_le p
    rw [wordBits_eq] at h64
    rw [length_bytesAt]
    omega
  have hround := leEncode_leDecode hlen
  rwa [length_bytesAt] at hround

/-- The word read from the bytes of an encoded word is that word (R143). -/
theorem wordAt_of_bytesAt {k : Nat} {p : Params} {r : Vector Reg32 k} {lo : Nat} {w : Word}
    (hw : isWord (wordBits p) w = true) (h : bytesAt r lo (wordBytes p) = leEncode (wordBytes p) w) :
    wordAt p r lo = w := by
  have hlt : w.toNat < 2 ^ (8 * wordBytes p) := by
    rw [← wordBits_eq]
    exact isWord_iff.mp hw
  rw [wordAt, h, leDecode_leEncode hlt, BitVec.ofNat_toNat, BitVec.setWidth_eq]

/-- The bytes of the input block are those of DIN as they stand there (R64). -/
theorem blockOut_dinBlock (s : State) :
    blockOut s.params (dinBlock s) = bytesAt s.din 0 (blockBytes s.params) := by
  rw [blockOut, dinBlock, leEncode_wordAt, leEncode_wordAt, blockBytes, Nat.two_mul, bytesAt_add,
    Nat.zero_add]

/-- After a write-back DIN holds the block written (R38, R64). -/
theorem dinBlock_setOut {s : State} {b : Block} (hb : b.isWords (bitsOf s)) :
    dinBlock (setOut (blockOut s.params b) true s) = b := by
  have hbytes : bytesAt (setOut (blockOut s.params b) true s).din 0 (blockBytes s.params) =
      blockOut s.params b := by
    rw [← length_blockOut s.params b]
    refine bytesAt_eq_of_getD fun j hj => ?_
    rw [length_blockOut] at hj
    rw [Nat.zero_add, setOut_dinByte _ _ _ (hj.trans_le (blockBytes_le _)), if_pos ⟨rfl, hj⟩]
  rw [blockBytes, Nat.two_mul, bytesAt_add, Nat.zero_add, blockOut] at hbytes
  obtain ⟨hx, hy⟩ := List.append_inj hbytes (by simp)
  rw [dinBlock]
  exact congrArg₂ Block.mk (wordAt_of_bytesAt hb.1 hx) (wordAt_of_bytesAt hb.2 hy)

/-! ### ENCRYPT and then DECRYPT -/

@[simp] theorem bitsOf_finish (s : State) : bitsOf (finish s) = bitsOf s := rfl
@[simp] theorem cfgRounds_finish (s : State) : cfgRounds (finish s) = cfgRounds s := rfl
@[simp] theorem dinBlock_finish (s : State) : dinBlock (finish s) = dinBlock s := rfl
@[simp] theorem bitsOf_setOut (out : List Byte) (wb : Bool) (s : State) :
    bitsOf (setOut out wb s) = bitsOf s := rfl
@[simp] theorem cfgRounds_setOut (out : List Byte) (wb : Bool) (s : State) :
    cfgRounds (setOut out wb s) = cfgRounds s := rfl

/-- DECRYPT of the block that Simon_enc makes of `b` writes `b` (R201, R203). -/
theorem execDecrypt_of_simonEnc {s : State} {b : Block} {len : Nat} (wb : Bool)
    (hdin : dinBlock s = simonEnc (bitsOf s) s.rk (cfgRounds s) b) (hkey : s.keyValid = true)
    (hlen : len = blockBytes s.params) :
    exec (.decrypt len wb) s = .next (finish (setOut (blockOut s.params b) wb s)) := by
  rw [execDecrypt_ok (blockCheck_eq_none hkey hlen), hdin, simonDec_simonEnc]

/-- ENCRYPT with write-back leaves in DIN what Simon_enc makes of the block that was there (R200). -/
theorem dinBlock_encrypted {s : State} (hrk : s.rk.all (isWord (bitsOf s)) = true) :
    let t := finish (setOut (blockOut s.params
      (simonEnc (bitsOf s) s.rk (cfgRounds s) (dinBlock s))) true s)
    dinBlock t = simonEnc (bitsOf t) t.rk (cfgRounds t) (dinBlock s) := by
  simp only [dinBlock_finish, bitsOf_finish, bitsOf_setOut, cfgRounds_finish, cfgRounds_setOut,
    finish_rk, setOut_rk]
  exact dinBlock_setOut (simonEnc_isWords (wordBits_le _) hrk _ (dinBlock_isWords s))

/-- Settles O51: within the block both arrays get the bytes DIN held; above it DIN keeps its own. -/
theorem decryptUndoesEncrypt : Obligations.DecryptUndoesEncrypt := by
  unfold Obligations.DecryptUndoesEncrypt
  intro s len hinv hkey hlen
  have hdecrypt := execDecrypt_of_simonEnc true (dinBlock_encrypted hinv.rkMasked) hkey hlen
  refine ⟨_, _, execEncrypt_ok (blockCheck_eq_none hkey hlen), hdecrypt,
    eq_of_byteAt fun j hj => ?din, fun j hj => ?dout⟩
  all_goals simp only [finish_din, finish_dout, finish_params, setOut_params, blockOut_dinBlock]
  case din =>
    rw [setOut_dinByte _ _ _ hj, finish_params, setOut_params]
    split
    · next h => rw [getD_bytesAt _ _ h.2, Nat.zero_add]
    · next h => rw [finish_din, setOut_dinByte _ _ _ hj, if_neg h]
  case dout =>
    rw [setOut_doutByte _ _ _ (hj.trans_le (blockBytes_le _)), finish_params,
      setOut_params, if_pos hj, getD_bytesAt _ _ hj, Nat.zero_add]

/-! ### ROUND_ENC and ROUND_DEC on a block -/

/-- With the two words of a block in ARG0 and ARG1 the round commands complete with the round of the block
(R184, R185). -/
theorem exec_round_of_block {s : State} {b : Block} {i : Nat} (hkey : s.keyValid = true)
    (hi : i < cfgRounds s) (hb : b.isWords (bitsOf s)) :
    (∃ t, exec (.roundEnc i) { s with arg0 := b.x, arg1 := b.y } = .next t ∧
      (⟨t.res0, t.res1⟩ : Block) = rnd (bitsOf s) (rkAt s.rk i) b) ∧
    (∃ t, exec (.roundDec i) { s with arg0 := b.x, arg1 := b.y } = .next t ∧
      (⟨t.res0, t.res1⟩ : Block) = rndInv (bitsOf s) (rkAt s.rk i) b) := by
  have hcheck : roundCheck i { s with arg0 := b.x, arg1 := b.y } = none :=
    roundCheck_eq_none hkey hi (isWord_iff.mp hb.1) (isWord_iff.mp hb.2)
  exact ⟨⟨_, execRoundEnc_ok hcheck, rfl⟩, ⟨_, execRoundDec_ok hcheck, rfl⟩⟩

/-- Settles O53: the blocks of Simon_enc are Words under the invariant, one round leads from each to the
next, and the inverse round back. -/
theorem roundCommandsChain : Obligations.RoundCommandsChain := by
  unfold Obligations.RoundCommandsChain
  intro s b i hinv hkey hi hx hy
  have hwords : ∀ T, (simonEnc (bitsOf s) s.rk T b).isWords (bitsOf s) := fun T =>
    simonEnc_isWords (wordBits_le _) hinv.rkMasked T ⟨hx, hy⟩
  obtain ⟨⟨t, ht, hround⟩, -⟩ := exec_round_of_block hkey hi (hwords i)
  obtain ⟨-, ⟨u, hu, hback⟩⟩ := exec_round_of_block hkey hi (hwords (i + 1))
  rw [simonEnc, rndInv_rnd] at hback
  exact ⟨⟨t, ht, congrArg Block.x hround, congrArg Block.y hround⟩,
    ⟨u, hu, congrArg Block.x hback, congrArg Block.y hback⟩⟩

end Sys2Proof.Machine
end

section
/-! Proofs: the bytes of DIN and KEY that reach no result (spec/10_state.md, R37 and R38). -/

namespace Sys2Proof.Machine

/-! ### DIN bytes above the block -/

theorem dinBlock_congr {s : State} {d : Vector Reg32 4}
    (h : ∀ j, j < blockBytes s.params → byteAt d j = byteAt s.din j) :
    dinBlock { s with din := d } = dinBlock s := by
  rw [blockBytes] at h
  have hx : bytesAt d 0 (wordBytes s.params) = bytesAt s.din 0 (wordBytes s.params) :=
    bytesAt_congr fun j _ hj => h j (by omega)
  have hy : bytesAt d (wordBytes s.params) (wordBytes s.params) =
      bytesAt s.din (wordBytes s.params) (wordBytes s.params) :=
    bytesAt_congr fun j _ hj => h j (by omega)
  simp only [dinBlock, wordAt, hx, hy]

/-- What ENCRYPT and DECRYPT leave, for the map of blocks that each applies (R200, R201). -/
def blockOutcome (f : Block → Block) (len : Nat) (wb : Bool) (s : State) : State :=
  match blockCheck len s with
  | some e => commandErrorState e s
  | none => finish (setOut (blockOut s.params (f (dinBlock s))) wb s)

theorem execEncrypt_eq_blockOutcome (len : Nat) (wb : Bool) (s : State) : exec (.encrypt len wb) s =
    .next (blockOutcome (simonEnc (bitsOf s) s.rk (cfgRounds s)) len wb s) := by
  cases h : blockCheck len s with
  | some e => rw [execEncrypt_raise h, blockOutcome, h]
  | none => rw [execEncrypt_ok h, blockOutcome, h]

theorem execDecrypt_eq_blockOutcome (len : Nat) (wb : Bool) (s : State) : exec (.decrypt len wb) s =
    .next (blockOutcome (simonDec (bitsOf s) s.rk (cfgRounds s)) len wb s) := by
  cases h : blockCheck len s with
  | some e => rw [execDecrypt_raise h, blockOutcome, h]
  | none => rw [execDecrypt_ok h, blockOutcome, h]

/-- The check does not read DIN, and the computation reads the bytes of the block only (R38). -/
theorem blockOutcome_din (f : Block → Block) (len : Nat) (wb : Bool) {s : State} {d : Vector Reg32 4}
    (h : ∀ j, j < blockBytes s.params → byteAt d j = byteAt s.din j) :
    ∃ d', blockOutcome f len wb { s with din := d } = { blockOutcome f len wb s with din := d' } := by
  have hcheck : blockCheck len { s with din := d } = blockCheck len s := rfl
  rw [blockOutcome, blockOutcome, hcheck, dinBlock_congr h]
  cases blockCheck len s with
  | some e => exact ⟨d, rfl⟩
  | none => exact ⟨_, rfl⟩

/-- Settles O55: both commands are such a map of blocks, and it does not depend on DIN. -/
theorem bytesAboveBlockIgnored : Obligations.BytesAboveBlockIgnored := by
  unfold Obligations.BytesAboveBlockIgnored
  intro s d len wb h
  refine ⟨fun t t' ht ht' => ?encrypt, fun t t' ht ht' => ?decrypt⟩
  case encrypt =>
    rw [execEncrypt_eq_blockOutcome] at ht ht'
    obtain rfl := Host.Outcome.next.inj ht
    obtain rfl := Host.Outcome.next.inj ht'
    obtain ⟨d', hd⟩ := blockOutcome_din (simonEnc (bitsOf s) s.rk (cfgRounds s)) len wb h
    exact hd ▸ rfl
  case decrypt =>
    rw [execDecrypt_eq_blockOutcome] at ht ht'
    obtain rfl := Host.Outcome.next.inj ht
    obtain rfl := Host.Outcome.next.inj ht'
    obtain ⟨d', hd⟩ := blockOutcome_din (simonDec (bitsOf s) s.rk (cfgRounds s)) len wb h
    exact hd ▸ rfl

/-! ### The raw key bytes -/

/-- `s` with other raw key bytes (R37). -/
def withKeyBytes (k : Vector Reg32 8) (s : State) : State := { s with key := k }

theorem blockOutcome_withKeyBytes (f : Block → Block) (len : Nat) (wb : Bool) (k : Vector Reg32 8)
    (s : State) :
    blockOutcome f len wb (withKeyBytes k s) = withKeyBytes k (blockOutcome f len wb s) := by
  have hcheck : blockCheck len (withKeyBytes k s) = blockCheck len s := rfl
  rw [blockOutcome, blockOutcome, hcheck]
  cases blockCheck len s with
  | some e => rfl
  | none => rfl

/-- Only LOAD_KEY reads the key bytes; of the other commands CLEAR_KEY overwrites them (R37, R162). -/
theorem exec_withKeyBytes {i : Instr} (hi : ∀ len, i ≠ .loadKey len) (s : State)
    (k : Vector Reg32 8) :
    ∃ k', exec i (withKeyBytes k s) = mapNext (withKeyBytes k') (exec i s) := by
  cases i with
  | nop => exact ⟨k, rfl⟩
  | clearKey => exact ⟨Vector.replicate 8 0, rfl⟩
  | loadKey len => exact absurd rfl (hi len)
  | encrypt len wb =>
    refine ⟨k, ?_⟩
    rw [execEncrypt_eq_blockOutcome, execEncrypt_eq_blockOutcome, mapNext_next,
      ← blockOutcome_withKeyBytes]
    rfl
  | decrypt len wb =>
    refine ⟨k, ?_⟩
    rw [execDecrypt_eq_blockOutcome, execDecrypt_eq_blockOutcome, mapNext_next,
      ← blockOutcome_withKeyBytes]
    rfl
  | roundEnc j =>
    cases h : roundCheck j s with
    | some e =>
      exact ⟨k, by rw [execRoundEnc_raise h, execRoundEnc_raise (s := withKeyBytes k s) h]; rfl⟩
    | none => exact ⟨k, by rw [execRoundEnc_ok h, execRoundEnc_ok (s := withKeyBytes k s) h]; rfl⟩
  | roundDec j =>
    cases h : roundCheck j s with
    | some e =>
      exact ⟨k, by rw [execRoundDec_raise h, execRoundDec_raise (s := withKeyBytes k s) h]; rfl⟩
    | none => exact ⟨k, by rw [execRoundDec_ok h, execRoundDec_ok (s := withKeyBytes k s) h]; rfl⟩
  | zbit j kw =>
    cases h : ctLookup s.params kw with
    | none => exact ⟨k, by rw [execZbit_bad h, execZbit_bad (s := withKeyBytes k s) h]; rfl⟩
    | some c => exact ⟨k, by rw [execZbit_ok h, execZbit_ok (s := withKeyBytes k s) h]; rfl⟩
  | rkRead j =>
    exact ⟨k, by simp only [execRkRead_cases, mapNext_next, apply_ite (withKeyBytes k)]; rfl⟩
  | rotl a =>
    exact ⟨k, by simp only [execRotl_cases, mapNext_next, apply_ite (withKeyBytes k)]; rfl⟩
  | rotr a =>
    exact ⟨k, by simp only [execRotr_cases, mapNext_next, apply_ite (withKeyBytes k)]; rfl⟩
  | scramble =>
    exact ⟨k, by simp only [execScramble_cases, mapNext_next, apply_ite (withKeyBytes k)]; rfl⟩

/-- The engine's part of a cycle reads the key bytes only where it completes a LOAD_KEY. -/
theorem enginePhase_withKeyBytes {c : Cycle} {s : State} (k : Vector Reg32 8)
    (hno : ¬ (s.busy = true ∧ c.engine = true ∧ ∃ len, decode s.pending = .ok (.loadKey len))) :
    ∃ k', enginePhase c (withKeyBytes k s) = mapNext (withKeyBytes k') (enginePhase c s) := by
  by_cases hcompletes : c.engine = true ∧ s.busy = true
  · obtain ⟨hengine, hbusy⟩ := hcompletes
    rw [enginePhase_of_busy hengine hbusy, enginePhase_of_busy (s := withKeyBytes k s) hengine hbusy]
    cases hi : decode s.pending with
    | error e =>
      rw [completePending_of_error hi, completePending_of_error (s := withKeyBytes k s) hi]
      exact ⟨k, rfl⟩
    | ok i =>
      rw [completePending_of_ok hi, completePending_of_ok (s := withKeyBytes k s) hi]
      exact exec_withKeyBytes (fun len h => hno ⟨hbusy, hengine, len, h ▸ hi⟩) s k
  · have hphase : ∀ u : State, u.busy = s.busy → enginePhase c u = .next u := fun u hu => by
      rw [enginePhase, if_neg (by simpa [hu] using hcompletes)]
    rw [hphase s rfl, hphase (withKeyBytes k s) rfl]
    exact ⟨k, rfl⟩

/-- KEY is write-only, so no register reads back the key bytes (R24, R37). -/
theorem readReg_withKeyBytes (r : Reg) (k : Vector Reg32 8) (s : State) :
    readReg r (withKeyBytes k s) = readReg r s := by
  cases r <;> rfl

theorem storeReg_withKeyBytes (r : Reg) (v : Reg32) (k : Vector Reg32 8) (s : State) :
    ∃ k', storeReg r v (withKeyBytes k s) = withKeyBytes k' (storeReg r v s) := by
  cases r with
  | key i => exact ⟨k.set i v, rfl⟩
  | ctrl =>
    cases hv : v.getLsbD 31 with
    | true =>
      refine ⟨Vector.replicate 8 0, ?_⟩
      rw [storeReg, storeReg, writeCtrl_reset hv, writeCtrl_reset hv]
      rfl
    | false =>
      refine ⟨k, ?_⟩
      rw [storeReg, storeReg, writeCtrl_enables hv, writeCtrl_enables hv]
      rfl
  | _ => exact ⟨k, rfl⟩

theorem busWrite_withKeyBytes (off : Offset) (v : Reg32) (k : Vector Reg32 8) (s : State) :
    ∃ k', busWrite off v (withKeyBytes k s) = withKeyBytes k' (busWrite off v s) := by
  rcases write_rejected_locked_or_accepted (regAt off) s with hrej | ⟨hbusy, hlock⟩ | ⟨hrej, hopen⟩
  · exact ⟨k, by rw [busWrite_rejected v hrej, busWrite_rejected v hrej]; rfl⟩
  · refine ⟨k, ?_⟩
    rw [busWrite_locked v hlock hbusy, busWrite_locked (s := withKeyBytes k s) v hlock hbusy]
    rfl
  · rw [busWrite_stored v hrej hopen, busWrite_stored (s := withKeyBytes k s) v hrej hopen]
    exact storeReg_withKeyBytes (regAt off) v k s

theorem busRead_withKeyBytes (off : Offset) (k : Vector Reg32 8) (s : State) :
    busRead off (withKeyBytes k s) = withKeyBytes k (busRead off s) := by
  by_cases hopen : s.busy = true ∧ (regAt off).openWhileBusy = true
  · obtain ⟨hbusy, hopen⟩ := hopen
    rw [busRead_open hbusy hopen, busRead_open (s := withKeyBytes k s) hbusy hopen]
    rfl
  · rw [busRead_defined hopen, busRead_defined (s := withKeyBytes k s) hopen, readReg_withKeyBytes]
    rfl

theorem busPhase_withKeyBytes (c : Cycle) (k : Vector Reg32 8) (s : State) :
    ∃ k', busPhase c (withKeyBytes k s) = withKeyBytes k' (busPhase c s) := by
  unfold busPhase
  split
  · exact ⟨k, rfl⟩
  split
  · exact busWrite_withKeyBytes c.addr c.wdata k s
  · exact ⟨k, busRead_withKeyBytes c.addr k s⟩

/-- Settles O56: a reset does not read the key bytes, and neither does the engine's part of the cycle
without a completing LOAD_KEY, nor any transfer. -/
theorem keyBytesFlowOnlyThroughLoadKey : Obligations.KeyBytesFlowOnlyThroughLoadKey := by
  unfold Obligations.KeyBytesFlowOnlyThroughLoadKey
  intro s t k hno h
  change ∃ k', clockEdge (nextCycle s) (withKeyBytes k (beginCycle s)) = .next (withKeyBytes k' t)
  rcases step_cases h with ⟨hrst, rfl⟩ | ⟨hrst, u, hu, rfl⟩
  · rw [clockEdge, if_neg (by simp [hrst])]
    exact ⟨Vector.replicate 8 0, rfl⟩
  · obtain ⟨k₁, hengine⟩ := enginePhase_withKeyBytes (c := nextCycle s) (s := beginCycle s) k
      fun ⟨hbusy, hengine, hload⟩ => hno ⟨hbusy, hrst, hengine, hload⟩
    obtain ⟨k₂, hbus⟩ := busPhase_withKeyBytes (nextCycle s) k₁ u
    exact ⟨k₂, by rw [clockEdge, if_pos hrst, hengine, hu, mapNext_next, mapNext_next, hbus]⟩

end Sys2Proof.Machine
end
